-- ==== Sys2Proof/Word.lean ====
section
/-! DEFINITION. The values the engine works on and their widths (spec R6, R7): all unsigned, bit 0 the least
significant. -/

namespace Sys2Proof

/-- A 4-bit value; nibble `j` of `v` is `v[4j+3:4j]` (R6). -/
abbrev Nibble := BitVec 4

/-- 8 bits (R6). -/
abbrev Byte := BitVec 8

/-- A 32-bit half of the word under transformation (R78). -/
abbrev Half := BitVec 32

/-- The 64-bit word, the block of the cipher (R5, R78). -/
abbrev Word := BitVec 64

/-- A round key, "a pair of 64-bit unsigned values `(k0, k1)`" (R11). -/
structure RoundKey where
  k0 : Word
  k1 : Word
  deriving DecidableEq, Repr

/-- The two halves of the word under transformation, `lower` bits 31:0 and `upper` bits 63:32 (R78). -/
structure Halves where
  lower : Half
  upper : Half
  deriving DecidableEq, Repr

end Sys2Proof
end

