-- ==== Sys2Proof/Config.lean ====
section
/-! DEFINITION. What an implementation fixes (R5: `SBOX_ENC` and `BUF_BYTES` are OPEN) and the free values that
stand for what the spec leaves unspecified (R8: "any value of the width"). -/

namespace Sys2Proof

/-- The sixteen nibble values 0 to 15, in ascending order. -/
def nibbles : List Nibble := (List.range 16).map (BitVec.ofNat 4)

/-- R58: "every value 0 to 15 occurs exactly once" among the sixteen entries. -/
def eachValueOnce (table : Vector Nibble 16) : Bool :=
  nibbles.all fun v => table.toList.count v == 1

/-- `SBOX_ENC` (R5, R59): sixteen 4-bit entries together with the check that they are a permutation of 0 to 15.
A table that is not one cannot be configured (R59). -/
structure Sbox where
  table : Vector Nibble 16
  permutation : eachValueOnce table = true
  deriving DecidableEq, Repr

/-- R5: the two open parameters, `SBOX_ENC` and the buffer capacity `0 <= BUF_BYTES <= 2^32 - 1`. -/
structure Config where
  sbox : Sbox
  bufBytes : Nat
  bufBytesBound : bufBytes < 4294967296
  deriving DecidableEq, Repr

theorem eachValueOnce_ofFn_perm (p : Equiv.Perm Nibble) :
    eachValueOnce (Vector.ofFn fun i : Fin 16 => p (BitVec.ofFin i)) = true := by
  have nodup : (Vector.ofFn fun i : Fin 16 => p (BitVec.ofFin i)).toList.Nodup := by
    rw [Vector.toList_ofFn]
    exact List.nodup_ofFn.2 fun a b h => by simpa using h
  simp only [eachValueOnce, List.all_eq_true, beq_iff_eq]
  intro v _
  refine List.count_eq_one_of_mem nodup ?_
  rw [Vector.toList_ofFn, List.mem_ofFn]
  exact ⟨(p.symm v).toFin, by simp⟩

/-- The table of a permutation of the nibbles. -/
def Sbox.ofPerm (p : Equiv.Perm Nibble) : Sbox :=
  ⟨Vector.ofFn fun i : Fin 16 => p (BitVec.ofFin i), eachValueOnce_ofFn_perm p⟩

/-- The permutation `SBOX_ENC` of the chip at hand, which no source gives (R59). No body: nothing evaluates it. -/
opaque Config.chipSboxEnc : Equiv.Perm Nibble

/-- `BUF_BYTES` of the chip at hand (R5, OPEN). No body. -/
opaque Config.chipBufBytes : BitVec 32

/-- The configuration of the chip at hand: both parameters open. -/
def Config.chip : Config :=
  ⟨Sbox.ofPerm Config.chipSboxEnc, Config.chipBufBytes.toNat, Config.chipBufBytes.isLt⟩

/-- The free values: `freeBits w n` is the `n`-th draw of a `w`-bit value the spec leaves unspecified (R8, R29).
No body: nothing evaluates it, so a claim that holds at all holds whatever is drawn. -/
opaque Config.freeBits : (w : Nat) → Nat → BitVec w

end Sys2Proof
end

