-- ==== Sys2Proof/Syntax.lean ====
section
/-! DEFINITION. The command set (R46): one constructor for each row of spec/opcode_table.json. -/

namespace Sys2Proof

/-- The six commands. They have no operand fields and no immediates (R50). -/
inductive Instr where
  /-- `NOP`, `0x00` (R110). -/
  | nop
  /-- `KGEN`, `0x01`: generate the key schedule (R75). -/
  | kgen
  /-- `ENCB`, `0x02`: encrypt one block (R89). -/
  | encb
  /-- `DECB`, `0x03`: decrypt one block (R90). -/
  | decb
  /-- `ENCBUF`, `0x04`: encrypt the buffer (R99). -/
  | encbuf
  /-- `DECBUF`, `0x05`: decrypt the buffer (R100). -/
  | decbuf
  deriving DecidableEq, Repr

end Sys2Proof
end

