-- ==== Sys2Proof/WellFormed.lean ====
section
/-! DEFINITION. Well-formedness checks: of an instruction (which has no operand that could be out of range, R50), of
a command word (R47 to R49) and of a configuration's parts (R5, R59). -/

namespace Sys2Proof

/-- R50: a command has no operand field, so each of the six is well formed as it stands. -/
def Instr.wellFormed : Instr → Bool
  | .nop => true
  | .kgen => true
  | .encb => true
  | .decb => true
  | .encbuf => true
  | .decbuf => true

/-- R47, R48: a command word names a command when `RSV`, bits 7:3, is `00000` and `OP`, bits 2:0, is not one of the
two reserved values `110`, `111`. -/
def commandWordWellFormed (c : Byte) : Bool :=
  c.extractLsb' 3 5 == 0 && c.extractLsb' 0 3 != 6 && c.extractLsb' 0 3 != 7

/-- R5, R59: a table is a configuration only when it is a permutation of 0 to 15, and a capacity only when it is at
most `2^32 - 1`. -/
def configWellFormed (table : Vector Nibble 16) (bufBytes : Nat) : Bool :=
  eachValueOnce table && decide (bufBytes ≤ 4294967295)

end Sys2Proof
end

