-- ==== Sys2Proof/Decode.lean ====
section
/-! DEFINITION. The decoder of the command word, total on all 256 words (R47 to R49, R52), and the encoder. -/

namespace Sys2Proof

/-- Why a command word names no command (R49). Either way the engine raises error code 1 (R123). -/
inductive DecodeError where
  /-- `RSV`, bits 7:3, is not `00000`. -/
  | reservedBits
  /-- `RSV` is zero and `OP` is `110` or `111`. -/
  | reservedOpcode
  deriving DecidableEq, Repr

/-- R48: the command of a 3-bit `OP`; `110` and `111` are reserved. -/
def decodeOp (op : BitVec 3) : Option Instr :=
  match op.toNat with
  | 0 => some .nop
  | 1 => some .kgen
  | 2 => some .encb
  | 3 => some .decb
  | 4 => some .encbuf
  | 5 => some .decbuf
  | _ => none

/-- R47 to R49: the decoder matches the full 8 bits. -/
def decode (c : Byte) : Except DecodeError Instr :=
  if c.extractLsb' 3 5 = 0 then
    match decodeOp (c.extractLsb' 0 3) with
    | some i => .ok i
    | none => .error .reservedOpcode
  else .error .reservedBits

/-- The opcode `OP` of a command (R46). -/
def opcode : Instr → BitVec 3
  | .nop => 0b000
  | .kgen => 0b001
  | .encb => 0b010
  | .decb => 0b011
  | .encbuf => 0b100
  | .decbuf => 0b101

/-- The command word of a command: `RSV = 00000` above `OP` (R47, R48). -/
def encode (i : Instr) : Byte := 0#5 ++ opcode i

/-- The decoder's reading of an opcode-table word: `w` cut to the `nbits` bits the table gives it, of which the
command word is bits 7:0 (R47: "the rest is ignored"). -/
def decodeTableWord (nbits w : Nat) : Option Instr :=
  match decode (BitVec.ofNat 8 (w % 2 ^ nbits)) with
  | .ok i => some i
  | .error _ => none

end Sys2Proof
end

