-- ==== Sys2Proof/Machine/Transaction.lean ====
section
/-! DEFINITION. The host's side of the interface: its transactions (R106), the loop `wait` (R54), the register numbers (R12), the buffer
spaces (R30) and what a read returns. -/

namespace Sys2Proof.Machine

/-- The two byte memories a host buffer transaction can name (R51). -/
inductive Space where
  | ibuf
  | obuf
  deriving DecidableEq, Repr

/-- What a register number selects (R12); 5, 6 and 7 do not exist (R21). -/
inductive HostReg where
  | cmd
  | status
  | din
  | dout
  | len
  | reserved
  deriving DecidableEq, Repr

/-- What a host script does next: one of the six transactions of R106, each atomic, or the loop `wait` of R54, whose
transactions depend on what its polls return. A register write carries 64 bits, the width of the widest register
(log entry 11); a buffer address is a natural number (R51). -/
inductive Txn where
  /-- `Reset` (R118, R136). -/
  | reset
  /-- `HostRegRead(n)` (R107, R116). -/
  | regRead (n : BitVec 3)
  /-- `HostRegWrite(n, v)` (R107, R117); `n = 0` issues a command (R108). -/
  | regWrite (n : BitVec 3) (v : Word)
  /-- `HostBufWrite(a, b)` (R115). -/
  | bufWrite (a : Nat) (b : Byte)
  /-- `HostBufRead(space, a)` (R115, R116). -/
  | bufRead (space : Space) (a : Nat)
  /-- No transaction: the host does nothing and the engine, if busy, takes its step (R106, R111). -/
  | idle
  /-- `wait` (R54): `HostRegRead(1)` until the value read has bit 0 equal to 0, one poll a step. Of the polls that read
  1, `early` come before the one that the engine's turn follows; how many is open (R146), so a statement takes every
  `early` (log entry 17). -/
  | wait (early : Nat)
  deriving DecidableEq, Repr

/-- What a read transaction returned to the host. -/
inductive Reply where
  /-- The value of register `n`, zero-extended to 64 bits. -/
  | reg (n : BitVec 3) (v : Word)
  /-- The byte read at address `a` of a buffer. -/
  | byte (space : Space) (a : Nat) (b : Byte)
  deriving DecidableEq, Repr

/-- The direction of the buffer transform (R94). -/
inductive Direction where
  | encrypt
  | decrypt
  deriving DecidableEq, Repr

/-- The refusal causes of R121; `ERRCODE` 0 stands for no error. -/
inductive ErrCause where
  /-- Code 1, `ILLEGAL_COMMAND` (R123). -/
  | illegalCommand
  /-- Code 2, `KEY_NOT_READY` (R124). -/
  | keyNotReady
  /-- Code 3, `LENGTH_RANGE` (R125). -/
  | lengthRange
  deriving DecidableEq, Repr

end Sys2Proof.Machine
end

