-- ==== Sys2Proof/Machine/State.lean ====
section
/-! DEFINITION. The machine's state (10_state.md), the reasons a step can stop, and the state after reset (R136). -/

namespace Sys2Proof.Machine

/-- A byte memory: the bytes written since reset, addresses strictly rising. An unlisted byte is one that nothing has
written since reset; it has no value of its own and a read of it is a draw (R29). -/
abbrev Memory := List Host.Cell

/-- Why the machine stops with a fault. The spec has no fault (R120, R121 set flags and go on); these two name the
states no run reaches in which it gives the engine no step. -/
inductive Fault where
  /-- Raised by the engine's turn when `BUSY = 1` and `OPC` is 6 or 7, which acceptance never latches (R111).
  Safe: the model stops where the spec says nothing. -/
  | reservedOpcode
  /-- Raised by the completion of `ENCBUF` or `DECBUF` when `LEN > BUF_BYTES`, which acceptance refuses (R31, R125).
  Safe: the model stops where the spec says nothing. -/
  | beyondBuffer
  deriving DecidableEq, Repr

/-- Why the model gives an instruction no meaning. -/
inductive Refusal where
  /-- Raised by an arm of `exec` that has no meaning yet; no arm is left. Safe. -/
  | notModelled (mnemonic : String)
  deriving DecidableEq, Repr

/-- The complete state (R10), then the model's own fields `script`, `replies` and `draws`. `CMD` holds no state
(R13). -/
structure State where
  /-- The open parameters (R5): constants that no step changes (R24). -/
  cfg : Config
  /-- `KS[0..24]` (R11). -/
  ks : Vector RoundKey 25
  /-- `STATUS.BUSY` (R15). -/
  busy : Bool
  /-- `STATUS.KSV` (R16). -/
  ksv : Bool
  /-- `STATUS.ERR` (R17). -/
  err : Bool
  /-- `STATUS.ERRCODE` (R17). -/
  errcode : BitVec 2
  /-- `DIN` (R18). -/
  din : Word
  /-- `DOUT` (R19). -/
  dout : Word
  /-- `LEN` (R20). -/
  len : BitVec 32
  /-- `IBUF` (R22). -/
  ibuf : Memory
  /-- `OBUF` (R23). -/
  obuf : Memory
  /-- `OPC`, the opcode of the command in progress (R25). -/
  opc : BitVec 3
  /-- `K0W`, working register (R26). -/
  k0w : Word
  /-- `K1W`, working register (R26). -/
  k1w : Word
  /-- `L`, working register (R26). -/
  l : Half
  /-- `U`, working register (R26). -/
  u : Half
  /-- `RND`, working register (R26). -/
  rnd : BitVec 5
  /-- `CHK`, working register (R26). -/
  chk : BitVec 32
  /-- The host's transactions still to come, oldest first (the model's own field). -/
  script : List Txn
  /-- What the host's reads have returned, oldest first (the model's own field). -/
  replies : List Reply
  /-- How many free values have been drawn (the model's own field). -/
  draws : Nat
  deriving DecidableEq, Repr

/-- R136: the state after a reset of an engine of configuration `cfg`, with `d` free values drawn before it. `KS`,
`OPC` and the working registers are unspecified and take free values; the two buffers list nothing. -/
def State.afterReset (cfg : Config) (script : List Txn) (replies : List Reply) (d : Nat) : State where
  cfg := cfg
  ks := Vector.ofFn fun r : Fin 25 => ⟨Config.freeBits 64 (d + 2 * r), Config.freeBits 64 (d + 2 * r + 1)⟩
  busy := false
  ksv := false
  err := false
  errcode := 0
  din := 0
  dout := 0
  len := 0
  ibuf := []
  obuf := []
  opc := Config.freeBits 3 (d + 50)
  k0w := Config.freeBits 64 (d + 51)
  k1w := Config.freeBits 64 (d + 52)
  l := Config.freeBits 32 (d + 53)
  u := Config.freeBits 32 (d + 54)
  rnd := Config.freeBits 5 (d + 55)
  chk := Config.freeBits 32 (d + 56)
  script := script
  replies := replies
  draws := d + 57

/-- The machine right after power-up, which "is treated as a `Reset`" (R136), with no transaction pending. -/
def State.reset : State := State.afterReset Config.chip [] [] 0

end Sys2Proof.Machine
end

