-- ==== Sys2Proof/Machine/Flags.lean ====
section
/-! DEFINITION. `STATUS` as the host reads it (R14, R107) and the error codes (R121). The datapath has no flags
(R28). -/

namespace Sys2Proof.Machine

/-- A one-bit field. -/
def bit (b : Bool) : BitVec 1 := BitVec.ofBool b

/-- R107: `000 ++ ERRCODE ++ ERR ++ KSV ++ BUSY`. -/
def statusByte (s : State) : Byte :=
  0#3 ++ s.errcode ++ bit s.err ++ bit s.ksv ++ bit s.busy

/-- The `ERRCODE` of each cause (R121). -/
def errCode : ErrCause → BitVec 2
  | .illegalCommand => 1
  | .keyNotReady => 2
  | .lengthRange => 3

end Sys2Proof.Machine
end

