-- ==== Sys2Proof/Machine/Ops.lean ====
section
/-! DEFINITION. The shared operations: byte memories, error entry and return (R122, R128), reset (R136), and the two
stages of a command, acceptance (R108, R109) and completion (R111). -/

namespace Sys2Proof.Machine

/-- What one step answers. -/
abbrev Result := Host.Outcome State Fault Refusal

/-- The canonical form of a memory: addresses strictly rising. (An unlisted address has no value, so no entry can
equal what it reads as.) -/
abbrev Memory.wf (m : Memory) : Prop := m.Pairwise fun x y => x.1 < y.1

/-- Every listed address is below the capacity `n` (R22, R23). -/
abbrev Memory.within (n : Nat) (m : Memory) : Prop := ∀ c ∈ m, c.1 < n

/-- The byte last written at an address since reset; none if nothing has written it (R29). -/
def Memory.lookup : Memory → Nat → Option Byte
  | [], _ => none
  | (k, v) :: m, a => if k = a then some v else Memory.lookup m a

/-- Writes one byte, keeping the canonical form. -/
def Memory.store : Memory → Nat → Byte → Memory
  | [], a, b => [(a, b)]
  | (k, v) :: m, a, b =>
    if a < k then (a, b) :: (k, v) :: m
    else if a = k then (a, b) :: m
    else (k, v) :: Memory.store m a b

/-- `MemWrite(space, a, n, b)` (R8): the bytes `b[0..n-1]` at addresses `a .. a+n-1`. -/
def Memory.storeBytes : Memory → Nat → List Byte → Memory
  | m, _, [] => m
  | m, a, b :: bs => Memory.storeBytes (Memory.store m a b) (a + 1) bs

/-- The host's script moves on to `rest`. -/
def setScript (rest : List Txn) (s : State) : State := { s with script := rest }

/-- The working registers end with unspecified values (R26): six draws. -/
def scrambleWork (s : State) : State :=
  { s with
    k0w := Config.freeBits 64 s.draws
    k1w := Config.freeBits 64 (s.draws + 1)
    l := Config.freeBits 32 (s.draws + 2)
    u := Config.freeBits 32 (s.draws + 3)
    rnd := Config.freeBits 5 (s.draws + 4)
    chk := Config.freeBits 32 (s.draws + 5)
    draws := s.draws + 6 }

/-- Error entry, `raise Err(code)` (R122): `ERR <- 1`, `ERRCODE <- code`, everything else as it was. -/
def raiseErr (c : ErrCause) (s : State) : State := { s with err := true, errcode := errCode c }

/-- Error return, `clrerr` (R128, R114): `ERR <- 0`, `ERRCODE <- 0`, nothing restored. -/
def clearErr (s : State) : State := { s with err := false, errcode := 0 }

/-- `Reset` (R136, R137): the engine as after power-up, whatever it was doing; the configuration is constant, and the
host's own script and replies are not the engine's. -/
def resetEngine (s : State) : State := State.afterReset s.cfg s.script s.replies s.draws

/-- R108 line 2: the commands that are refused while `KSV = 0`. -/
def needsKey : Instr → Bool
  | .nop | .kgen => false
  | .encb | .decb | .encbuf | .decbuf => true

/-- R108 line 3: the commands that are refused while `LEN > BUF_BYTES`. -/
def needsLength : Instr → Bool
  | .nop | .kgen | .encb | .decb => false
  | .encbuf | .decbuf => true

/-- R108 line 4: acceptance changes only `OPC` and `BUSY`. -/
def accept (i : Instr) (s : State) : State := { s with opc := opcode i, busy := true }

/-- Issuing a legal command to an idle engine: ignored while `ERR = 1` (R109 (b)), else R108 lines 2 to 4, the first
that applies. -/
def issue (i : Instr) (s : State) : State :=
  if s.err then s
  else if needsKey i && !s.ksv then raiseErr .keyNotReady s
  else if needsLength i && decide (s.cfg.bufBytes < s.len.toNat) then raiseErr .lengthRange s
  else accept i s

/-- The common end of every completion step: `BUSY <- 0` (R111), working registers unspecified (R26). -/
def finish (s : State) : State := { scrambleWork s with busy := false }

/-- A command's two stages. On an idle engine it is issued; on an engine busy with it, it is carried out by
`complete` (R111). On an engine busy with another command it is ignored entirely (R109 (a)). -/
def runCommand (i : Instr) (complete : State → Result) (s : State) : Result :=
  if s.busy then
    if s.opc = opcode i then complete s else .next s
  else .next (issue i s)

end Sys2Proof.Machine
end

