-- ==== Sys2Proof/Machine/Operands.lean ====
section
/-! DEFINITION. How operands are reached: register numbers (R12), the command word of a register write (R47), buffer
bytes (R8 `MemRead`, R29) and the little-endian codec (R33). Commands carry no operand of their own (R50). -/

namespace Sys2Proof.Machine

/-- R12: which register a number selects. -/
def hostReg (n : BitVec 3) : HostReg :=
  match n.toNat with
  | 0 => .cmd
  | 1 => .status
  | 2 => .din
  | 3 => .dout
  | 4 => .len
  | _ => .reserved

/-- R47: of a wider register write "only bits 7:0 are the command word". -/
def commandWord (v : Word) : Byte := v.extractLsb' 0 8

/-- One byte of a buffer; a byte nothing has written since reset is draw number `d` (R29). -/
def readByte (m : Memory) (a d : Nat) : Byte := (m.lookup a).getD (Config.freeBits 8 d)

/-- `MemRead(space, a, n)` (R8); byte `j` takes draw `d + j` if nothing has written it. -/
def memRead (m : Memory) (a n d : Nat) : List Byte :=
  (List.range n).map fun j => readByte m (a + j) (d + j)

/-- R33: `LE64dec(b)`, the word with `w[8j+7:8j] = b[j]`. -/
def le64dec (b : Vector Byte 8) : Word :=
  b[7] ++ b[6] ++ b[5] ++ b[4] ++ b[3] ++ b[2] ++ b[1] ++ b[0]

/-- R33: `LE64enc(w)`, the bytes `b[j] = w[8j+7:8j]`. -/
def le64enc (w : Word) : Vector Byte 8 :=
  #v[w.extractLsb' 0 8, w.extractLsb' 8 8, w.extractLsb' 16 8, w.extractLsb' 24 8,
     w.extractLsb' 32 8, w.extractLsb' 40 8, w.extractLsb' 48 8, w.extractLsb' 56 8]

end Sys2Proof.Machine
end

