-- ==== Sys2Proof/Machine/Tables.lean ====
section
/-! DEFINITION. The S-box tables and the functions that apply them (40_sbox_tables.md R58 to R64), and the two example
tables of R65. -/

namespace Sys2Proof.Machine

/-- `S_ENC[n]` (R58). -/
def sEnc (T : Sbox) (n : Nibble) : Nibble := T.table[n.toNat]'(n.isLt)

/-- `S_DEC[m]` (R60): "the unique `n` with `S_ENC[n] = m`". -/
def sDec (T : Sbox) (m : Nibble) : Nibble := (nibbles.find? fun n => sEnc T n == m).getD 0

/-- Nibble `j` of a 32-bit value (R6). -/
def nibbleOf (v : Half) (j : Nat) : Nibble := v.extractLsb' (4 * j) 4

/-- `Sub32(T, v)` (R61): each of the eight nibbles looked up in place. -/
def sub32 (table : Nibble → Nibble) (v : Half) : Half :=
  table (nibbleOf v 7) ++ table (nibbleOf v 6) ++ table (nibbleOf v 5) ++ table (nibbleOf v 4) ++
    table (nibbleOf v 3) ++ table (nibbleOf v 2) ++ table (nibbleOf v 1) ++ table (nibbleOf v 0)

/-- `Sub8(T, b)` (R62): both nibbles looked up in place. -/
def sub8 (table : Nibble → Nibble) (b : Byte) : Byte :=
  table (b.extractLsb' 4 4) ++ table (b.extractLsb' 0 4)

/-- R65: `T_ID`, the identity. An example for vectors, not the hardware's table. -/
def tableId : Sbox := ⟨#v[0x0, 0x1, 0x2, 0x3, 0x4, 0x5, 0x6, 0x7, 0x8, 0x9, 0xA, 0xB, 0xC, 0xD, 0xE, 0xF], by decide⟩

/-- R65: `T_EX`. An example for vectors, not the hardware's table. -/
def tableEx : Sbox := ⟨#v[0xC, 0x5, 0x6, 0xB, 0x9, 0x0, 0xA, 0xD, 0x3, 0xE, 0xF, 0x8, 0x4, 0x7, 0x1, 0x2], by decide⟩

end Sys2Proof.Machine
end

