-- ==== Sys2Proof/Machine/KeySchedule.lean ====
section
/-! DEFINITION. The key schedule generator (41_key_schedule.md R66 to R74) and `KGEN` (R75, R76). -/

namespace Sys2Proof.Machine

/-- `SEED` (R5, R67): `(k0, k1) = (0, 0)`. -/
def seed : RoundKey := ⟨0, 0⟩

/-- Step 1 (R68): both new values are computed from the old pair. -/
def rotatePair (p : RoundKey) : RoundKey where
  k1 := p.k1 <<< 13 ||| p.k0 >>> 51
  k0 := p.k0 <<< 13 ||| p.k1 >>> 51

/-- Step 2 (R69): the low byte of `k1` through `S_ENC`. -/
def substLowByte (T : Sbox) (p : RoundKey) : RoundKey :=
  { p with k1 := p.k1.extractLsb' 8 56 ++ sub8 (sEnc T) (p.k1.extractLsb' 0 8) }

/-- Step 3 (R70): the round constant into bits 63:59 of `k1`. -/
def injectConstant (i : BitVec 5) (p : RoundKey) : RoundKey :=
  { p with k1 := (p.k1.extractLsb' 59 5 ^^^ i) ++ p.k1.extractLsb' 0 59 }

/-- One iteration, steps 1 to 3 in that order (R67). -/
def scheduleStep (T : Sbox) (i : Nat) (p : RoundKey) : RoundKey :=
  injectConstant (BitVec.ofNat 5 i) (substLowByte T (rotatePair p))

/-- `KS[i]` by recursion on `i` (R71, R73): iteration `i` continues from the pair stored by iteration `i - 1`. -/
def roundKey (T : Sbox) : Nat → RoundKey
  | 0 => scheduleStep T 0 seed
  | i + 1 => scheduleStep T (i + 1) (roundKey T i)

/-- `KeyScheduleGen(S_ENC)` (R72): 25 round keys. -/
def keyScheduleGen (T : Sbox) : Vector RoundKey 25 := Vector.ofFn fun r : Fin 25 => roundKey T r

/-- R75, R76: the completion step of `KGEN`; with `KSV = 1` already it writes neither `KS` nor `KSV`. -/
def completeKgen (s : State) : Result :=
  .next (finish (if s.ksv then s else { s with ks := keyScheduleGen s.cfg.sbox, ksv := true }))

/-- `KGEN` (R75): accepted whatever `KSV` and `LEN` are. -/
def execKgen (s : State) : Result := runCommand .kgen completeKgen s

end Sys2Proof.Machine
end

