-- ==== Sys2Proof/Machine/Block.lean ====
section
/-! DEFINITION. The round function and the 25-round block cipher (42_round_function.md R78 to R88), `ENCB` (R89) and
`DECB` (R90). -/

namespace Sys2Proof.Machine

/-- `Split(w)` (R78). -/
def splitWord (w : Word) : Halves := ⟨w.extractLsb' 0 32, w.extractLsb' 32 32⟩

/-- `Join(L, U) = U ++ L` (R78). -/
def joinHalves (x : Halves) : Word := x.upper ++ x.lower

/-- `ROL32(v, n)` (R79), used with `n = 10` only. -/
def rol32 (v : Half) (n : Nat) : Half := v <<< n ||| v >>> (32 - n)

/-- `ROR32(v, n)` (R80), used with `n = 3` only. -/
def ror32 (v : Half) (n : Nat) : Half := v >>> n ||| v <<< (32 - n)

/-- The low half of `k1`, mixed in by step 2 of a round (R82, R88). -/
def keyLow (k : RoundKey) : Half := k.k1.extractLsb' 0 32

/-- The high half of `k1`, mixed in by step 3 of a round (R82, R88). -/
def keyHigh (k : RoundKey) : Half := k.k1.extractLsb' 32 32

/-- `EncRound` (R82) with round key `k`. -/
def encRound (T : Sbox) (k : RoundKey) (x : Halves) : Halves :=
  let u1 := sub32 (sEnc T) x.upper
  let u2 := u1 ^^^ keyLow k ^^^ ror32 x.lower 3
  let t := x.lower ^^^ keyHigh k ^^^ rol32 u2 10
  ⟨u2, t⟩

/-- `DecRound` (R84) with round key `k`: `lower` is recovered before `u1`. -/
def decRound (T : Sbox) (k : RoundKey) (x : Halves) : Halves :=
  let lower := x.upper ^^^ keyHigh k ^^^ rol32 x.lower 10
  let u1 := x.lower ^^^ keyLow k ^^^ ror32 lower 3
  ⟨lower, sub32 (sDec T) u1⟩

/-- The round indices 0 to 24 in ascending order (R83). -/
def rounds : List (Fin 25) := List.finRange 25

/-- `EncryptBlock(w)` (R83): rounds 0 to 24, round `r` with `KS[r]`, no swap after the last. -/
def encryptBlock (T : Sbox) (ks : Vector RoundKey 25) (w : Word) : Word :=
  joinHalves (rounds.foldl (fun x r => encRound T ks[r] x) (splitWord w))

/-- `DecryptBlock(w)` (R85): rounds 24 down to 0, round `r` with `KS[r]`. -/
def decryptBlock (T : Sbox) (ks : Vector RoundKey 25) (w : Word) : Word :=
  joinHalves (rounds.reverse.foldl (fun x r => decRound T ks[r] x) (splitWord w))

/-- R89: the completion step of `ENCB`. -/
def completeEncb (s : State) : Result :=
  .next (finish { s with dout := encryptBlock s.cfg.sbox s.ks s.din })

/-- R90: the completion step of `DECB`. -/
def completeDecb (s : State) : Result :=
  .next (finish { s with dout := decryptBlock s.cfg.sbox s.ks s.din })

/-- `ENCB` (R89): refused with code 2 while `KSV = 0`. -/
def execEncb (s : State) : Result := runCommand .encb completeEncb s

/-- `DECB` (R90): refused with code 2 while `KSV = 0`. -/
def execDecb (s : State) : Result := runCommand .decb completeDecb s

end Sys2Proof.Machine
end

