-- ==== Sys2Proof/Machine/Buffer.lean ====
section
/-! DEFINITION. The chunked buffer transform (43_buffer_transform.md R94 to R98), `ENCBUF` (R99) and `DECBUF` (R100). -/

namespace Sys2Proof.Machine

/-- The complete 25-round block operation of a direction (R96). -/
def blockOp (T : Sbox) (ks : Vector RoundKey 25) : Direction → Word → Word
  | .encrypt => encryptBlock T ks
  | .decrypt => decryptBlock T ks

/-- A full chunk (R96): decode, transform, encode. -/
def chunkOp (T : Sbox) (ks : Vector RoundKey 25) (d : Direction) (b : Vector Byte 8) : Vector Byte 8 :=
  le64enc (blockOp T ks d (le64dec b))

/-- `Transform(in, n, direction)` (R98), chunks in ascending order; fewer than 8 remaining bytes are copied (R97). -/
def transform (T : Sbox) (ks : Vector RoundKey 25) (d : Direction) : List Byte → List Byte
  | b0 :: b1 :: b2 :: b3 :: b4 :: b5 :: b6 :: b7 :: rest =>
    (chunkOp T ks d #v[b0, b1, b2, b3, b4, b5, b6, b7]).toList ++ transform T ks d rest
  | tail => tail

/-- The bytes `IBUF[0..LEN-1]` a buffer command reads; bytes nothing has written are draws (R29). DESIGN CHOICE (log
entry 22): the draw is made of the input byte and not of the output bytes of its chunk. -/
def inputBytes (s : State) : List Byte := memRead s.ibuf 0 s.len.toNat s.draws

/-- R99, R100: the completion step, `OBUF[0..LEN-1] <- Transform(IBUF[0..LEN-1])`. No accepted command reaches it with
`LEN > BUF_BYTES`, where the bytes do not exist (R31). DESIGN CHOICE (log entry 22): of a full chunk that holds an
unwritten byte the output is the transform of the chunk with a drawn byte in its place, one of the outputs that "any
value" for its 8 bytes allows (93_implementation_defined.md U11). -/
def completeBuffer (d : Direction) (s : State) : Result :=
  if s.len.toNat ≤ s.cfg.bufBytes then
    .next (finish { s with
      obuf := s.obuf.storeBytes 0 (transform s.cfg.sbox s.ks d (inputBytes s))
      draws := s.draws + s.len.toNat })
  else .fault .beyondBuffer

/-- `ENCBUF` (R99): refused with code 2 while `KSV = 0`, with code 3 while `LEN > BUF_BYTES`. -/
def execEncbuf (s : State) : Result := runCommand .encbuf (completeBuffer .encrypt) s

/-- `DECBUF` (R100): refused as `ENCBUF` is. -/
def execDecbuf (s : State) : Result := runCommand .decbuf (completeBuffer .decrypt) s

end Sys2Proof.Machine
end

