-- ==== Sys2Proof/Machine/System.lean ====
section
/-! DEFINITION. `NOP` (R110). -/

namespace Sys2Proof.Machine

/-- R110: the completion step is `BUSY <- 0`. -/
def completeNop (s : State) : Result := .next (finish s)

/-- `NOP` (R110): needs only `BUSY = 0` and `ERR = 0` to be accepted. -/
def execNop (s : State) : Result := runCommand .nop completeNop s

end Sys2Proof.Machine
end

