-- ==== Sys2Proof/Machine/Dispatch.lean ====
section
/-! DEFINITION. One arm for each command: what it does to the machine in the state it meets. -/

namespace Sys2Proof.Machine

def exec (i : Instr) (s : State) : Host.Outcome State Fault Refusal :=
  match i with
  | .nop => Sys2Proof.Machine.execNop s
  | .kgen => Sys2Proof.Machine.execKgen s
  | .encb => Sys2Proof.Machine.execEncb s
  | .decb => Sys2Proof.Machine.execDecb s
  | .encbuf => Sys2Proof.Machine.execEncbuf s
  | .decbuf => Sys2Proof.Machine.execDecbuf s

end Sys2Proof.Machine
end

