-- ==== Sys2Proof/Machine/HostPort.lean ====
section
/-! DEFINITION. The host's transactions other than issuing a command (R107, R114 to R117). -/

namespace Sys2Proof.Machine

/-- Records what a read returned. -/
def addReply (r : Reply) (s : State) : State := { s with replies := s.replies ++ [r] }

/-- One free value has been drawn. -/
def countDraw (s : State) : State := { s with draws := s.draws + 1 }

/-- `HostRegRead(n)` (R107): `CMD` and the reserved registers read 0; `DOUT` is unspecified while `BUSY = 1` (R116).
No read changes the engine's state (R37). -/
def regRead (n : BitVec 3) (s : State) : State :=
  match hostReg n with
  | .cmd => addReply (.reg n 0) s
  | .status => addReply (.reg n ((statusByte s).setWidth 64)) s
  | .din => addReply (.reg n s.din) s
  | .dout =>
    if s.busy then addReply (.reg n (Config.freeBits 64 s.draws)) (countDraw s) else addReply (.reg n s.dout) s
  | .len => addReply (.reg n (s.len.setWidth 64)) s
  | .reserved => addReply (.reg n 0) s

/-- `HostRegWrite(n, v)` for the registers that store or clear (R107, R114); ignored while `BUSY = 1` (R117). A write
to `CMD` issues a command and does not come here (R108). -/
def regWrite (n : BitVec 3) (v : Word) (s : State) : State :=
  if s.busy then s
  else
    match hostReg n with
    | .status => if v.getLsbD 2 then clearErr s else s
    | .din => { s with din := v }
    | .len => { s with len := v.extractLsb' 0 32 }
    | .cmd => s
    | .dout => s
    | .reserved => s

/-- `HostBufWrite(a, b)` (R115): `IBUF[a] <- b`; ignored beyond the capacity (R31) and while `BUSY = 1` (R117). -/
def bufWrite (a : Nat) (b : Byte) (s : State) : State :=
  if s.busy then s
  else if a < s.cfg.bufBytes then { s with ibuf := s.ibuf.store a b }
  else s

/-- The memory a space names. -/
def spaceOf (s : State) : Space → Memory
  | .ibuf => s.ibuf
  | .obuf => s.obuf

/-- The byte a host buffer read returns where the spec fixes it; none where it is unspecified: beyond the capacity
(R31), never written (R29), or `OBUF` while `BUSY = 1` (R116). -/
def bufValue (space : Space) (a : Nat) (s : State) : Option Byte :=
  if s.cfg.bufBytes ≤ a then none
  else if s.busy && decide (space = .obuf) then none
  else (spaceOf s space).lookup a

/-- `HostBufRead(space, a)` (R115, R116). -/
def bufRead (space : Space) (a : Nat) (s : State) : State :=
  match bufValue space a s with
  | some b => addReply (.byte space a b) s
  | none => addReply (.byte space a (Config.freeBits 8 s.draws)) (countDraw s)

end Sys2Proof.Machine
end

