-- ==== Sys2Proof/Machine/Control.lean ====
section
/-! DEFINITION. Whose turn it is: the engine's step (R111), a command word written to `CMD` (R108, R109), and the
host's transactions (R106). -/

namespace Sys2Proof.Machine

/-- The engine's step (R111): it has one exactly when `BUSY = 1`, and then carries out the command `OPC` names. -/
def engineTurn (s : State) : Result :=
  if s.busy then
    match decodeOp s.opc with
    | some i => exec i s
    | none => .fault .reservedOpcode
  else .next s

/-- A command word written to `CMD`: ignored while `BUSY = 1` or `ERR = 1` (R109), else examined; an illegal word is
refused with code 1 before anything else is checked (R108 line 1, R123). -/
def issueWord (c : Byte) (s : State) : Result :=
  if s.busy || s.err then .next s
  else
    match decode c with
    | .ok i => exec i s
    | .error _ => .next (raiseErr .illegalCommand s)

/-- What is left of `wait` after a poll that read `BUSY = 1`: more polls, or the engine's turn and then more polls
(log entry 17). -/
def waitAgain : Nat → List Txn → List Txn
  | 0, rest => .idle :: .wait 0 :: rest
  | early + 1, rest => .wait early :: rest

/-- One poll of `wait` (R54): `rd STATUS`, and the loop goes on while bit 0 of the value read is 1. -/
def pollStatus (early : Nat) (s : State) : State :=
  if (statusByte s).getLsbD 0 then setScript (waitAgain early s.script) (regRead 1 s) else regRead 1 s

/-- One entry of the host's script (R106, R54). -/
def hostTurn (t : Txn) (s : State) : Result :=
  match t with
  | .reset => .next (resetEngine s)
  | .regRead n => .next (regRead n s)
  | .regWrite n v => if hostReg n = .cmd then issueWord (commandWord v) s else .next (regWrite n v s)
  | .bufWrite a b => .next (bufWrite a b s)
  | .bufRead space a => .next (bufRead space a s)
  | .idle => engineTurn s
  | .wait early => .next (pollStatus early s)

/-- The machine with the command word `c` next in the host's script and examined when it is written: the engine idle
and no error pending (R108). -/
def placeCommand (c : Byte) (s : State) : State :=
  { s with busy := false, err := false, errcode := 0, script := .regWrite 0 (c.setWidth 64) :: s.script }

end Sys2Proof.Machine
end

