-- ==== Sys2Proof/Machine/Step.lean ====
section
/-! DEFINITION. One step of the machine: the next entry of the host's script, or, when the script is used up, the
engine's turn. -/

namespace Sys2Proof.Machine

/-- One step (R40: the transactions of the host and the steps of the engine form one total order). -/
def step (s : State) : Host.Outcome State Fault Refusal :=
  match s.script with
  | [] => engineTurn s
  | t :: rest => hostTurn t (setScript rest s)

/-- `s` with the opcode-table word `w` placed where the next step examines it: a write of it to `CMD`, next in the
host's script, on an engine that is idle with no error pending (log entry 7). -/
def State.withFetchWord (s : State) (nbits w : Nat) : State := placeCommand (BitVec.ofNat 8 (w % 2 ^ nbits)) s

end Sys2Proof.Machine
end

