-- ==== Sys2Proof/Machine/Micro.lean ====
section
/-! DEFINITION. The finer model the spec allows (R91, R112): an accepted command as a sequence of micro-steps over the
working registers of R26, one schedule iteration, one round or one chunk at a time. `step` does not use it; it takes
the whole completion step at once (R111).

DESIGN CHOICE (log entry 23): the last micro-step of a command leaves the working registers as they stand and draws no
new values for them, where R26 and U12 of 93_implementation_defined.md allow any. -/

namespace Sys2Proof.Machine

/-- What a command puts into the working registers before its first micro-step: the seed (R67), the halves of the
input word and the first round's index (R91), or the offset of the first chunk (R95). -/
def microStart (s : State) : State :=
  match decodeOp s.opc with
  | some .kgen => { s with k0w := seed.k0, k1w := seed.k1, rnd := 0 }
  | some .encb => { s with l := (splitWord s.din).lower, u := (splitWord s.din).upper, rnd := 0 }
  | some .decb => { s with l := (splitWord s.din).lower, u := (splitWord s.din).upper, rnd := 24 }
  | some .encbuf => { s with chk := 0 }
  | some .decbuf => { s with chk := 0 }
  | some .nop => s
  | none => s

/-- `KS[RND]`. (`RND` is at most 24 in every micro-step; past the table the seed stands in.) -/
def microKey (s : State) : RoundKey := s.ks[s.rnd.toNat]?.getD seed

/-- One schedule iteration (R67): steps 1 to 3 on `(K0W, K1W)`, stored as `KS[RND]`; `KSV` is set with the clearing of
`BUSY` (R112 (b)). With `KSV = 1` already there is nothing to do (R76). DESIGN CHOICE
(log entry 23): after the last, the working registers stay as they stand. -/
def microKgen (s : State) : State :=
  if s.ksv then { s with busy := false }
  else
    let p := scheduleStep s.cfg.sbox s.rnd.toNat ⟨s.k0w, s.k1w⟩
    let s' := { s with k0w := p.k0, k1w := p.k1, ks := s.ks.setIfInBounds s.rnd.toNat p }
    if s.rnd = 24 then { s' with ksv := true, busy := false } else { s' with rnd := s.rnd + 1 }

/-- One encryption round (R91): `RND` counts up to 24. DESIGN CHOICE
(log entry 23): after the last, the working registers stay as they stand. -/
def microEncb (s : State) : State :=
  let x := encRound s.cfg.sbox (microKey s) ⟨s.l, s.u⟩
  let s' := { s with l := x.lower, u := x.upper }
  if s.rnd = 24 then { s' with dout := joinHalves x, busy := false } else { s' with rnd := s.rnd + 1 }

/-- One decryption round (R91): `RND` counts down to 0. DESIGN CHOICE
(log entry 23): after the last, the working registers stay as they stand. -/
def microDecb (s : State) : State :=
  let x := decRound s.cfg.sbox (microKey s) ⟨s.l, s.u⟩
  let s' := { s with l := x.lower, u := x.upper }
  if s.rnd = 0 then { s' with dout := joinHalves x, busy := false } else { s' with rnd := s.rnd - 1 }

/-- One chunk at offset `CHK` (R95): a full one through the cipher, a partial one copied (R96, R97). DESIGN CHOICE
(log entry 23): after the last, the working registers stay as they stand. -/
def microBuffer (d : Direction) (s : State) : State :=
  let left := s.len.toNat - s.chk.toNat
  let bytes := memRead s.ibuf s.chk.toNat (min 8 left) (s.draws + s.chk.toNat)
  let s' := { s with obuf := s.obuf.storeBytes s.chk.toNat (transform s.cfg.sbox s.ks d bytes) }
  if left ≤ 8 then { s' with busy := false, draws := s.draws + s.len.toNat } else { s' with chk := s.chk + 8 }

/-- One micro-step of the command in progress; `BUSY` stays 1 until the last (R112 (a)), which `NOP`
reaches at once. DESIGN CHOICE (log entry 23): after the last, the working registers stay as they stand. -/
def microStep (s : State) : State :=
  if s.busy then
    match decodeOp s.opc with
    | some .nop => { s with busy := false }
    | some .kgen => microKgen s
    | some .encb => microEncb s
    | some .decb => microDecb s
    | some .encbuf => microBuffer .encrypt s
    | some .decbuf => microBuffer .decrypt s
    | none => s
  else s

/-- `k` micro-steps. -/
def microRun : Nat → State → State
  | 0, s => s
  | k + 1, s => microRun k (microStep s)

end Sys2Proof.Machine
end

