-- ==== Sys2Proof/Machine/Script.lean ====
section
/-! DEFINITION. The pseudo-instructions of the host script and their expansions (R53, R54). -/

namespace Sys2Proof.Machine

/-- `cmd <MNEMONIC>`: `wr CMD, <command word>`. -/
def scriptCmd (i : Instr) : List Txn := [.regWrite 0 ((encode i).setWidth 64)]

/-- `wait`: `rd STATUS` until the value read has bit 0 equal to 0, a loop that `pollStatus` runs. With `BUSY = 0` it
is one poll, whatever `early` is; `early` places the engine's turn among the polls (log entry 17). -/
def scriptWait (early : Nat) : List Txn := [.wait early]

/-- `clrerr`: `wr STATUS, 0x04`. -/
def scriptClrerr : List Txn := [.regWrite 1 0x04]

/-- `fill <addr>, <b0> <b1> ...`: `bw addr, b0`; `bw addr+1, b1`; ... -/
def scriptFill : Nat → List Byte → List Txn
  | _, [] => []
  | a, b :: bs => .bufWrite a b :: scriptFill (a + 1) bs

/-- `dump <SPACE>, <addr>, <n>`: `br SPACE, addr`; ...; `br SPACE, addr+n-1`. -/
def scriptDump (space : Space) (a n : Nat) : List Txn := (List.range n).map fun j => .bufRead space (a + j)

end Sys2Proof.Machine
end

