-- ==== Sys2Proof/Safety.lean ====
section
/-! DEFINITION. The words claims use: the invariant of every run, when a command is accepted or in progress, and
agreement of two states. -/

namespace Sys2Proof.Machine

/-- What holds in every state a run from reset reaches. -/
structure State.Inv (s : State) : Prop where
  ibufWf : s.ibuf.wf
  obufWf : s.obuf.wf
  /-- R22: no byte of `IBUF` lies beyond the capacity. -/
  ibufWithin : s.ibuf.within s.cfg.bufBytes
  /-- R23: no byte of `OBUF` lies beyond the capacity. -/
  obufWithin : s.obuf.within s.cfg.bufBytes
  /-- R14: `ERRCODE` is 0 when `ERR = 0`, and holds a cause when `ERR = 1` (R121). -/
  errcodeZero : s.errcode = 0 ↔ s.err = false
  /-- R114: `ERR = 0` whenever `BUSY = 1`. -/
  busyNoErr : s.busy = true → s.err = false
  /-- R16: with `KSV = 1`, `KS` holds the generated schedule. -/
  schedule : s.ksv = true → s.ks = keyScheduleGen s.cfg.sbox
  /-- R111: while `BUSY = 1`, `OPC` names a command that passed the checks of R108. -/
  opcAccepted : s.busy = true → ∃ i, s.opc = opcode i ∧
    (needsKey i = true → s.ksv = true) ∧ (needsLength i = true → s.len.toNat ≤ s.cfg.bufBytes)

/-- The command `i` is in progress (R25). -/
abbrev State.InProgress (s : State) (i : Instr) : Prop := s.busy = true ∧ s.opc = opcode i

/-- An idle engine that examines command writes (R108): `BUSY = 0` and `ERR = 0`. -/
abbrev State.Ready (s : State) : Prop := s.busy = false ∧ s.err = false

/-- `s` with the working registers of R26, and the count of free values drawn, as they are in `t`. A statement
`t = { s.withWorkOf t with … }` says that `t` is `s` but for the fields named and these. -/
def State.withWorkOf (s t : State) : State :=
  { s with k0w := t.k0w, k1w := t.k1w, l := t.l, u := t.u, rnd := t.rnd, chk := t.chk, draws := t.draws }

/-- Two states that differ at most in what the host cannot reach (R106): `KS`, `OPC` and the working registers. -/
def State.SameToHost (s t : State) : Prop :=
  t = { s with
    ks := t.ks, opc := t.opc, k0w := t.k0w, k1w := t.k1w, l := t.l, u := t.u, rnd := t.rnd, chk := t.chk }

/-- It is the engine's turn (R106, R111): the host makes no transaction now, and `rest` is what it does later. -/
abbrev State.EngineTurn (s : State) (rest : List Txn) : Prop :=
  s.script = .idle :: rest ∨ (s.script = [] ∧ rest = [])

/-- A bound on the steps a script's entry can take: of `wait` its polls, the engine's turn and the last poll. -/
def txnSteps : Txn → Nat
  | .wait early => early + 3
  | _ => 1

/-- A bound on the steps of a script. -/
def scriptSteps (script : List Txn) : Nat := (script.map txnSteps).sum

/-- The next transaction of the host is `Reset`. -/
abbrev State.ResetNext (s : State) : Prop := s.script.head? = some .reset

/-- `bytes` can be what a read of the first `n` bytes of `m` gives: its length is `n`, and every byte that something
has written since reset is the byte written. The others are unspecified (R29). -/
abbrev ReadsAs (m : Memory) (n : Nat) (bytes : List Byte) : Prop :=
  bytes.length = n ∧ ∀ a b, a < n → m.lookup a = some b → bytes[a]? = some b

end Sys2Proof.Machine
end

