-- ==== Sys2Proof/Certificates/Slice0/Obligations.lean ====
section
/-! DEFINITION. The statements about the engine, from the numbered rules of the spec. -/

open Sys2Proof Sys2Proof.Machine

/-- R48: the opcode map, complete. -/
def Obligations.ExactlySixWordsNameCommands : Prop :=
  decode 0x00 = .ok .nop ∧ decode 0x01 = .ok .kgen ∧ decode 0x02 = .ok .encb ∧ decode 0x03 = .ok .decb ∧
    decode 0x04 = .ok .encbuf ∧ decode 0x05 = .ok .decbuf ∧
    ∀ c : Byte, 0x05 < c → ∃ e, decode c = .error e

/-- R47, R48: encoding and decoding are inverse to each other. -/
def Obligations.EncodeAndDecodeAgree : Prop :=
  (∀ i, decode (encode i) = .ok i) ∧ ∀ c i, decode c = .ok i → encode i = c

/-- R49, R123: the 250 illegal words; each, when examined, is refused with code 1 whatever `KSV` and `LEN` are, and has
no other effect; every other word is one command. -/
def Obligations.IllegalWordsRefusedWithCodeOne : Prop :=
  (∀ c : Byte, (c.extractLsb' 3 5 ≠ 0 ∨ c.extractLsb' 0 3 = 6 ∨ c.extractLsb' 0 3 = 7) ↔ 0x05 < c) ∧
  (∀ c : Byte, 0x05 < c ↔ ∃ e, decode c = .error e) ∧
  (∀ c : Byte, ¬0x05 < c ↔ ∃ i, decode c = .ok i) ∧
  ((List.range 256).countP fun n => !(commandWordWellFormed (BitVec.ofNat 8 n))) = 250 ∧
  (∀ c : Byte, commandWordWellFormed c = true ↔ ∃ i, decode c = .ok i) ∧
  ∀ (s : State) (v : Word) (rest : List Txn), s.Ready → s.script = .regWrite 0 v :: rest →
    (v.extractLsb' 3 5 ≠ 0 ∨ v.extractLsb' 0 3 = 6 ∨ v.extractLsb' 0 3 = 7) →
    step s = .next { s with script := rest, err := true, errcode := 1 }

/-- A written command word that decodes goes to its command: the step is `exec` of it, past the script's entry. That
the examination of a word is `exec` of its command, which on an idle engine is the acceptance and not the completion,
is the model's choice (log entry 6). -/
def Obligations.ExaminedWordStepRunsItsCommand : Prop :=
  ∀ (s : State) (v : Word) (rest : List Txn) (i : Instr), s.Ready → s.script = .regWrite 0 v :: rest →
    decode (v.extractLsb' 0 8) = .ok i → step s = exec i { s with script := rest }

/-- On the engine's turn a busy engine runs the command `OPC` names (R111). Of an idle one R111 says that it has no
step; that the machine's step then answers the same state with the script moved on is the model's choice (log entry
12), as is an empty script being the engine's turn (log entry 5). -/
def Obligations.EngineTurnRunsLatchedCommand : Prop :=
  ∀ (s : State) (rest : List Txn), s.EngineTurn rest →
    (∀ i, s.InProgress i → step s = exec i { s with script := rest }) ∧
    (s.busy = false → step s = .next { s with script := rest })

/-- An opcode-table word placed by `withFetchWord` is what the next step runs (log entry 7: the model's choice of how a
word is placed). -/
def Obligations.PlacedWordRunsNext : Prop :=
  ∀ (s : State) (nbits w : Nat) (i : Instr), decodeTableWord nbits w = some i →
    step (s.withFetchWord nbits w) = exec i { s with busy := false, err := false, errcode := 0 }

/-- R108: a command word is examined in this order and the first matching line applies. -/
def Obligations.CommandWordsExaminedInOrder : Prop :=
  ∀ (s : State) (v : Word) (rest : List Txn), s.Ready → s.script = .regWrite 0 v :: rest →
    let op : BitVec 3 := v.extractLsb' 0 3
    let line1 := v.extractLsb' 3 5 ≠ 0 ∨ op = 6 ∨ op = 7
    let line2 := (op = 2 ∨ op = 3 ∨ op = 4 ∨ op = 5) ∧ s.ksv = false
    let line3 := (op = 4 ∨ op = 5) ∧ s.cfg.bufBytes < s.len.toNat
    (line1 → step s = .next { s with script := rest, err := true, errcode := 1 }) ∧
    (¬line1 → line2 → step s = .next { s with script := rest, err := true, errcode := 2 }) ∧
    (¬line1 → ¬line2 → line3 → step s = .next { s with script := rest, err := true, errcode := 3 }) ∧
    (¬line1 → ¬line2 → ¬line3 → step s = .next { s with script := rest, opc := op, busy := true })

/-- R109: a command write is ignored entirely while `BUSY = 1` or `ERR = 1`. -/
def Obligations.CommandWritesIgnoredWhileBusyOrError : Prop :=
  ∀ (s : State) (v : Word) (rest : List Txn), s.script = .regWrite 0 v :: rest →
    (s.busy = true ∨ (s.busy = false ∧ s.err = true)) → step s = .next { s with script := rest }

/-- R124, R125: the two refusals of a legal command, by the command's own meaning. The first does not look at `LEN`. -/
def Obligations.KeyAndLengthRefusals : Prop :=
  ∀ s : State, s.Ready →
    (∀ i, i = .encb ∨ i = .decb ∨ i = .encbuf ∨ i = .decbuf → s.ksv = false →
      exec i s = .next { s with err := true, errcode := 2 }) ∧
    (∀ i, i = .encbuf ∨ i = .decbuf → s.ksv = true → s.cfg.bufBytes < s.len.toNat →
      exec i s = .next { s with err := true, errcode := 3 }) ∧
    (∀ i, i = .encbuf ∨ i = .decbuf → s.ksv = true → s.len.toNat = s.cfg.bufBytes →
      exec i s = .next { s with opc := opcode i, busy := true })

/-- R129, which the spec derives: while `ERR = 1` the cause stays the first one, and while `BUSY = 1` no error is
raised. -/
def Obligations.ErrorsDoNotNest : Prop :=
  ∀ s t : State, step s = .next t → ¬s.ResetNext →
    (s.err = true → (∀ v rest, s.script = .regWrite 1 v :: rest → v.getLsbD 2 = false) →
      t.err = true ∧ t.errcode = s.errcode) ∧
    (s.busy = true → t.err = s.err ∧ t.errcode = s.errcode)

/-- R121: an error is raised only by the acceptance of a command word, with one of the three codes. -/
def Obligations.ErrorsComeOnlyFromCommandWrites : Prop :=
  ∀ s t : State, step s = .next t → s.err = false → t.err = true →
    s.busy = false ∧ ∃ (v : Word) (rest : List Txn), s.script = .regWrite 0 v :: rest ∧
      ((t.errcode = 1 ∧ (v.extractLsb' 3 5 ≠ 0 ∨ v.extractLsb' 0 3 = 6 ∨ v.extractLsb' 0 3 = 7)) ∨
       (t.errcode = 2 ∧ s.ksv = false ∧ ∃ i, i ∈ [Instr.encb, .decb, .encbuf, .decbuf] ∧
          v.extractLsb' 0 8 = encode i) ∨
       (t.errcode = 3 ∧ s.cfg.bufBytes < s.len.toNat ∧ ∃ i, i ∈ [Instr.encbuf, .decbuf] ∧
          v.extractLsb' 0 8 = encode i))

/-- R114: a write to `STATUS` clears the error when bit 2 is 1 and does nothing else; with `ERR = 0` already it has no
effect; while `BUSY = 1` it is ignored. (That `ERR = 0` then is the rule's own inference; `StepKeepsTheInvariant` says
it.) -/
def Obligations.StatusWriteClearsTheErrorOnly : Prop :=
  ∀ (s : State) (v : Word) (rest : List Txn), s.script = .regWrite 1 v :: rest →
    (s.busy = false → v.getLsbD 2 = true → step s = .next { s with script := rest, err := false, errcode := 0 }) ∧
    (s.busy = false → v.getLsbD 2 = false → step s = .next { s with script := rest }) ∧
    (s.busy = false → s.Inv → s.err = false → step s = .next { s with script := rest }) ∧
    (s.busy = true → step s = .next { s with script := rest })

/-- R107: the register transactions while `BUSY = 0`. Writes to `CMD` and `STATUS` are the subject of R108 and R114;
here they are said to be the examination of the word and the write that clears. That a reply carries 64 bits, the
register's value zero-extended, is the model's choice (log entry 11). -/
def Obligations.RegisterTransactionsWhenIdle : Prop :=
  ∀ (s : State) (rest : List Txn), s.busy = false →
    (∀ (n : BitVec 3) (v : Word), s.script = .regRead n :: rest →
      (n = 0 → v = 0) →
      (n = 1 → v = (0#3 ++ s.errcode ++ BitVec.ofBool s.err ++ BitVec.ofBool s.ksv ++
        BitVec.ofBool s.busy : BitVec 8).setWidth 64) →
      (n = 2 → v = s.din) → (n = 3 → v = s.dout) → (n = 4 → v = s.len.setWidth 64) → (5 ≤ n → v = 0) →
      step s = .next { s with script := rest, replies := s.replies ++ [.reg n v] }) ∧
    (∀ (n : BitVec 3) (v : Word), s.script = .regWrite n v :: rest →
      (n = 0 → step s = issueWord (v.extractLsb' 0 8) { s with script := rest }) ∧
      (n = 1 → step s = .next (if v.getLsbD 2 then clearErr { s with script := rest } else { s with script := rest })) ∧
      (n = 2 → step s = .next { s with script := rest, din := v }) ∧
      (n = 3 → step s = .next { s with script := rest }) ∧
      (n = 4 → step s = .next { s with script := rest, len := v.extractLsb' 0 32 }) ∧
      (5 ≤ n → step s = .next { s with script := rest }))

/-- R117: while `BUSY = 1` every register and buffer write is ignored, so the inputs of the command in progress and the
flags are stable until the engine's turn; only `Reset` acts on a busy engine. -/
def Obligations.WritesIgnoredWhileBusy : Prop :=
  ∀ (s : State) (rest : List Txn), s.busy = true →
    (∀ n v, s.script = .regWrite n v :: rest → step s = .next { s with script := rest }) ∧
    (∀ a b, s.script = .bufWrite a b :: rest → step s = .next { s with script := rest }) ∧
    (∀ t, step s = .next t → ¬s.ResetNext → t.din = s.din ∧ t.len = s.len ∧ t.ibuf = s.ibuf) ∧
    (∀ t, step s = .next t → ¬s.ResetNext → (∀ r, ¬s.EngineTurn r) →
      t = { s with script := t.script, replies := t.replies, draws := t.draws })

/-- R116: reads while `BUSY = 1`. `STATUS` returns its current value; `DOUT` and `OBUF` return some value; the others
return what they return when `BUSY = 0`, and no read changes any other state. That a reply carries 64 bits, the
register's value zero-extended, is the model's choice (log entry 11). -/
def Obligations.ReadsWhileBusy : Prop :=
  ∀ (s : State) (rest : List Txn), s.busy = true →
    (∀ (n : BitVec 3) (v : Word), s.script = .regRead n :: rest → n ≠ 3 →
      (n = 0 → v = 0) →
      (n = 1 → v = (0#3 ++ s.errcode ++ BitVec.ofBool s.err ++ BitVec.ofBool s.ksv ++
        BitVec.ofBool s.busy : BitVec 8).setWidth 64) →
      (n = 2 → v = s.din) → (n = 4 → v = s.len.setWidth 64) → (5 ≤ n → v = 0) →
      step s = .next { s with script := rest, replies := s.replies ++ [.reg n v] }) ∧
    (s.script = .regRead 3 :: rest → ∃ v d,
      step s = .next { s with script := rest, replies := s.replies ++ [.reg 3 v], draws := d }) ∧
    (∀ a, s.script = .bufRead .obuf a :: rest → ∃ b d,
      step s = .next { s with script := rest, replies := s.replies ++ [.byte .obuf a b], draws := d }) ∧
    (∀ a, s.script = .bufRead .ibuf a :: rest → ∃ b d,
      step s = .next { s with script := rest, replies := s.replies ++ [.byte .ibuf a b], draws := d } ∧
      (a < s.cfg.bufBytes → ∀ b', s.ibuf.lookup a = some b' → b = b'))

/-- R115: buffer transactions while `BUSY = 0`. A read of a byte that nothing has written, or at or beyond the
capacity, returns some byte. -/
def Obligations.BufferTransactionsWhenIdle : Prop :=
  ∀ (s : State) (a : Nat) (rest : List Txn), s.busy = false →
    (∀ b, s.script = .bufWrite a b :: rest → a < s.cfg.bufBytes → ∃ t,
      step s = .next t ∧ t = { s with script := rest, ibuf := t.ibuf } ∧
      ∀ a', t.ibuf.lookup a' = if a' = a then some b else s.ibuf.lookup a') ∧
    (∀ b, s.script = .bufWrite a b :: rest → s.cfg.bufBytes ≤ a → step s = .next { s with script := rest }) ∧
    (∀ sp, s.script = .bufRead sp a :: rest → ∃ b d,
      step s = .next { s with script := rest, replies := s.replies ++ [.byte sp a b], draws := d } ∧
      (a < s.cfg.bufBytes → ∀ b',
        (match sp with | .ibuf => s.ibuf.lookup a | .obuf => s.obuf.lookup a) = some b' → b = b'))

/-- R37: no read changes any state of the engine. (`replies` and `draws` are the model's own.) -/
def Obligations.ReadsHaveNoSideEffect : Prop :=
  ∀ (s : State) (rest : List Txn),
    ((∃ n, s.script = .regRead n :: rest) ∨ ∃ sp a, s.script = .bufRead sp a :: rest) →
    ∃ t, step s = .next t ∧ t = { s with script := rest, replies := t.replies, draws := t.draws } ∧
      ∃ r, t.replies = s.replies ++ [r]

/-- R136, R118: `Reset`, in every state, and power-up. Of the elements the rule leaves unspecified nothing is said
but that no buffer byte has a value of its own, which is how the model says `unspecified` of them: a reset empties both
lists, and a read of an unlisted byte draws (the model's choice, log entry 4). -/
def Obligations.ResetGivesTheResetValues : Prop :=
  (∀ (s : State) (rest : List Txn), s.script = .reset :: rest → ∃ t, step s = .next t ∧
    t.busy = false ∧ t.ksv = false ∧ t.err = false ∧ t.errcode = 0 ∧ t.din = 0 ∧ t.dout = 0 ∧ t.len = 0 ∧
    t.cfg = s.cfg ∧ (∀ a, t.ibuf.lookup a = none ∧ t.obuf.lookup a = none) ∧
    t.script = rest ∧ t.replies = s.replies) ∧
  (let t := State.reset
   t.busy = false ∧ t.ksv = false ∧ t.err = false ∧ t.errcode = 0 ∧ t.din = 0 ∧ t.dout = 0 ∧ t.len = 0 ∧
    ∀ a, t.ibuf.lookup a = none ∧ t.obuf.lookup a = none)

/-- R24: no command, reset or host action changes the tables (or the capacity). -/
def Obligations.ConfigurationNeverChanges : Prop :=
  ∀ s t : State, step s = .next t → t.cfg = s.cfg

/-- R110: `NOP` is accepted whatever `KSV` is, and its completion clears `BUSY` and nothing else (the working registers
are unspecified after any command, R26). -/
def Obligations.NopOnlyClearsBusy : Prop :=
  encode .nop = 0x00 ∧
  (∀ s : State, s.Ready → exec .nop s = .next { s with opc := 0, busy := true }) ∧
  ∀ s : State, s.InProgress .nop → ∃ t, exec .nop s = .next t ∧ t = { s.withWorkOf t with busy := false }

/-- R75, R76: `KGEN` needs neither `KSV = 1` nor a valid `LEN`; its completion fills `KS` and sets `KSV`, or, with
`KSV = 1` already, only clears `BUSY`; and no step but a reset changes `KS` while `KSV = 1`. -/
def Obligations.KgenFillsTheScheduleOnce : Prop :=
  encode .kgen = 0x01 ∧
  (∀ s : State, s.Ready → exec .kgen s = .next { s with opc := 1, busy := true }) ∧
  (∀ s : State, s.InProgress .kgen → s.ksv = false → ∃ t, exec .kgen s = .next t ∧
    t = { s.withWorkOf t with ks := keyScheduleGen s.cfg.sbox, ksv := true, busy := false }) ∧
  (∀ s : State, s.InProgress .kgen → s.ksv = true → ∃ t, exec .kgen s = .next t ∧
    t = { s.withWorkOf t with busy := false }) ∧
  ∀ s t : State, step s = .next t → s.ksv = true → ¬s.ResetNext → t.ks = s.ks ∧ t.ksv = true

/-- R72, which the spec derives from R67 to R71: the loop of `KeyScheduleGen`, iteration by iteration. -/
def Obligations.ScheduleFollowsTheLoop : Prop :=
  ∀ T : Sbox,
    let iteration : Nat → RoundKey → RoundKey := fun i old =>
      let n1 := old.k1 <<< 13 ||| old.k0 >>> 51
      let n0 := old.k0 <<< 13 ||| old.k1 >>> 51
      let k1 : Word := n1.extractLsb' 8 56 ++ sub8 (sEnc T) (n1.extractLsb' 0 8)
      ⟨n0, (k1.extractLsb' 59 5 ^^^ BitVec.ofNat 5 i) ++ k1.extractLsb' 0 59⟩
    (keyScheduleGen T)[(0 : Fin 25)] = iteration 0 ⟨0, 0⟩ ∧
    ∀ i : Fin 24, (keyScheduleGen T)[i.succ] = iteration (i + 1) (keyScheduleGen T)[i.castSucc]

/-- R68, R69, R70: steps 1 to 3 of an iteration, their corner cases and worked examples. Steps 2 and 3 touch the low
byte and the top five bits of `k1` and nothing else. (The readings R68 and R70 mark as derived are in
`ScheduleRotatesAndXors`.) -/
def Obligations.ScheduleStepsOneToThree : Prop :=
  (∀ p : RoundKey,
    (rotatePair p).k1 = (p.k1 <<< 13 ||| p.k0 >>> 51) ∧ (rotatePair p).k0 = (p.k0 <<< 13 ||| p.k1 >>> 51)) ∧
  (∀ (T : Sbox) (p : RoundKey),
    (substLowByte T p).k0 = p.k0 ∧
    (substLowByte T p).k1.extractLsb' 8 56 = p.k1.extractLsb' 8 56 ∧
    (substLowByte T p).k1.extractLsb' 0 8 = sub8 (sEnc T) (p.k1.extractLsb' 0 8)) ∧
  (∀ (i : Nat) (p : RoundKey), i ≤ 24 →
    (injectConstant (BitVec.ofNat 5 i) p).k0 = p.k0 ∧
    (injectConstant (BitVec.ofNat 5 i) p).k1.extractLsb' 59 5 = p.k1.extractLsb' 59 5 ^^^ BitVec.ofNat 5 i ∧
    (injectConstant (BitVec.ofNat 5 i) p).k1.extractLsb' 0 59 = p.k1.extractLsb' 0 59) ∧
  rotatePair ⟨0, 0⟩ = ⟨0, 0⟩ ∧
  rotatePair ⟨0x0000000000000100, 0x1000000000000000⟩ = ⟨0x0000000000200200, 0x0000000000000000⟩ ∧
  (∀ (T : Sbox) (p : RoundKey), p.k1.extractLsb' 0 8 = 0 →
    (substLowByte T p).k1.extractLsb' 0 8 = 0x11 * (sEnc T 0).setWidth 8) ∧
  (substLowByte tableEx ⟨0, 0x0CC1661330D98B30⟩).k1 = 0x0CC1661330D98BBC ∧
  (∀ p, injectConstant 0 p = p) ∧
  (injectConstant (BitVec.ofNat 5 11) ⟨0, 0x2002001801000A00⟩).k1 = 0x7802001801000A00

/-- The readings R68 and R70 mark as derived: step 1 rotates the 128-bit value `K1W ++ K0W` left by 13 (the operands of
each OR have no bit in common), and step 3 XORs the round index into bits 63:59, which step 1 took from bits 50:46. -/
def Obligations.ScheduleRotatesAndXors : Prop :=
  (∀ p : RoundKey,
    ((rotatePair p).k1 ++ (rotatePair p).k0 : BitVec 128) = (p.k1 ++ p.k0 : BitVec 128).rotateLeft 13 ∧
    (p.k1 <<< 13) &&& (p.k0 >>> 51) = 0 ∧ (p.k0 <<< 13) &&& (p.k1 >>> 51) = 0) ∧
  (∀ (i : Nat) (p : RoundKey), i ≤ 24 →
    (injectConstant (BitVec.ofNat 5 i) p).k1 = p.k1 ^^^ (BitVec.ofNat 64 i <<< 59)) ∧
  ∀ (T : Sbox) (p : RoundKey),
    (substLowByte T (rotatePair p)).k1.extractLsb' 59 5 = p.k1.extractLsb' 46 5

/-- R77 (a), (b), which the spec derives: the first two round keys, for every table. -/
def Obligations.FirstTwoRoundKeys : Prop :=
  ∀ T : Sbox,
    let s : Word := 0x11 * (sEnc T 0).setWidth 64
    (keyScheduleGen T)[(0 : Fin 25)] = ⟨0, s⟩ ∧
    (keyScheduleGen T)[(1 : Fin 25)] = ⟨0, 0x0800000000000000 + s * 0x2000 + s⟩

/-- R58, and the law R60 quotes: `S_ENC` takes every nibble value exactly once, and `S_DEC` undoes it. -/
def Obligations.TablesAreInverseBijections : Prop :=
  ∀ T : Sbox, (∀ v, ∃! n, sEnc T n = v) ∧ (∀ v ∈ nibbles, T.table.toList.count v = 1) ∧
    (∀ n, sDec T (sEnc T n) = n) ∧ Function.Bijective (sDec T)

/-- R61, R62: `Sub32` and `Sub8` look up each nibble in place; corner cases and worked examples. -/
def Obligations.SubstitutionKeepsNibblePositions : Prop :=
  (∀ (f : Nibble → Nibble) (v : Half) (j : Fin 8),
    (sub32 f v).extractLsb' (4 * j) 4 = f (v.extractLsb' (4 * j) 4)) ∧
  (∀ f : Nibble → Nibble, sub32 f 0 = 0x11111111 * (f 0).setWidth 32 ∧
    sub32 f 0xFFFFFFFF = 0x11111111 * (f 15).setWidth 32) ∧
  (∀ (f : Nibble → Nibble) (b : Byte),
    (sub8 f b).extractLsb' 4 4 = f (b.extractLsb' 4 4) ∧ (sub8 f b).extractLsb' 0 4 = f (b.extractLsb' 0 4)) ∧
  (∀ f : Nibble → Nibble, sub8 f 0 = 0x11 * (f 0).setWidth 8) ∧
  sub32 (sEnc tableEx) 0x01234567 = 0xC56B90AD ∧ sub32 (sEnc tableEx) 0x89ABCDEF = 0x3EF84712 ∧
  sub8 (sEnc tableEx) 0x00 = 0xCC ∧ sub8 (sEnc tableEx) 0x30 = 0xBC

/-- R63 and the second law of R60, both marked as derived there: `S_DEC[m]` is the one index of `m` in `S_ENC`, and
`Sub32` of either table undoes `Sub32` of the other. -/
def Obligations.SubstitutionInverseLaw : Prop :=
  ∀ (T : Sbox) (v : Half),
    (∀ m n, sDec T m = n ↔ sEnc T n = m) ∧
    sub32 (sDec T) (sub32 (sEnc T) v) = v ∧ sub32 (sEnc T) (sub32 (sDec T) v) = v

/-- R79, R80: where each bit goes, the formulas, and the worked examples. -/
def Obligations.RotationsMoveEachBit : Prop :=
  (∀ (v : Half) (n : Nat), 1 ≤ n → n ≤ 31 →
    rol32 v n = (v <<< n ||| v >>> (32 - n)) ∧ ror32 v n = (v >>> n ||| v <<< (32 - n)) ∧
    (∀ j < 32, (rol32 v n).getLsbD ((j + n) % 32) = v.getLsbD j) ∧
    (∀ j < 32, (ror32 v n).getLsbD ((j + 32 - n) % 32) = v.getLsbD j) ∧
    ror32 (rol32 v n) n = v) ∧
  rol32 0x80000001 10 = 0x00000600 ∧ rol32 0xDEADBEEF 10 = 0xB6FBBF7A ∧
  ror32 0x80000001 3 = 0x30000000 ∧ ror32 0xDEADBEEF 3 = 0xFBD5B7DD

/-- R81, which the spec derives: the rotations are bijections, fix 0 and all ones, and distribute over XOR. -/
def Obligations.RotationsAreLinearBijections : Prop :=
  ∀ n : Nat, 1 ≤ n → n ≤ 31 →
    Function.Bijective (fun v : Half => rol32 v n) ∧ Function.Bijective (fun v : Half => ror32 v n) ∧
    rol32 0 n = 0 ∧ ror32 0 n = 0 ∧ rol32 0xFFFFFFFF n = 0xFFFFFFFF ∧ ror32 0xFFFFFFFF n = 0xFFFFFFFF ∧
    ∀ a b : Half, rol32 (a ^^^ b) n = rol32 a n ^^^ rol32 b n ∧ ror32 (a ^^^ b) n = ror32 a n ^^^ ror32 b n

/-- R82: one encryption round, its corner case and its worked example. -/
def Obligations.EncryptionRoundFollowsItsSteps : Prop :=
  (∀ (T : Sbox) (k : RoundKey) (L U : Half),
    let u2 := sub32 (sEnc T) U ^^^ k.k1.extractLsb' 0 32 ^^^ (L >>> 3 ||| L <<< 29)
    encRound T k ⟨L, U⟩ = ⟨u2, L ^^^ k.k1.extractLsb' 32 32 ^^^ (u2 <<< 10 ||| u2 >>> 22)⟩) ∧
  (∀ (T : Sbox) (k0 : Word),
    let s32 : Half := 0x11111111 * (sEnc T 0).setWidth 32
    encRound T ⟨k0, 0⟩ ⟨0, 0⟩ = ⟨s32, rol32 s32 10⟩ ∧
    (encRound T ⟨k0, 0⟩ ⟨0, 0⟩ = ⟨0, 0⟩ ↔ sEnc T 0 = 0)) ∧
  ∀ k0 : Word, encRound tableEx ⟨k0, 0x123456789ABCDEF0⟩ ⟨0xDEADBEEF, 0x01234567⟩ = ⟨0xA402F980, 0xC77FEA07⟩

/-- R84, which the spec derives from R82: one decryption round, with `lower` recovered before `u1`, and its worked
example. -/
def Obligations.DecryptionRoundFollowsItsSteps : Prop :=
  (∀ (T : Sbox) (k : RoundKey) (L' U' : Half),
    let l := U' ^^^ k.k1.extractLsb' 32 32 ^^^ (L' <<< 10 ||| L' >>> 22)
    let u1 := L' ^^^ k.k1.extractLsb' 0 32 ^^^ (l >>> 3 ||| l <<< 29)
    decRound T k ⟨L', U'⟩ = ⟨l, sub32 (sDec T) u1⟩) ∧
  (∀ (T : Sbox) (k : RoundKey) (x : Halves), decRound T k (encRound T k x) = x) ∧
  ∀ k0 : Word, decRound tableEx ⟨k0, 0x123456789ABCDEF0⟩ ⟨0xA402F980, 0xC77FEA07⟩ = ⟨0xDEADBEEF, 0x01234567⟩

/-- R86, which the spec derives: a decryption round undoes the encryption round with the same key, and the other way
round. -/
def Obligations.RoundsAreInverse : Prop :=
  ∀ (T : Sbox) (k : RoundKey),
    (∀ x, decRound T k (encRound T k x) = x) ∧ (∀ x, encRound T k (decRound T k x) = x) ∧
    Function.Bijective (encRound T k) ∧ Function.Bijective (decRound T k)

/-- R83, R85: encryption runs rounds 0 to 24 upward and decryption 24 to 0 downward, round `r` with `KS[r]`, and the
halves are joined as they stand. -/
def Obligations.BlocksRunTwentyFiveRounds : Prop :=
  ∀ (T : Sbox) (ks : Vector RoundKey 25) (w : Word),
    (∃ x : Fin 26 → Halves, x 0 = ⟨w.extractLsb' 0 32, w.extractLsb' 32 32⟩ ∧
      (∀ r : Fin 25, x r.succ = encRound T ks[r] (x r.castSucc)) ∧
      encryptBlock T ks w = (x (Fin.last 25)).upper ++ (x (Fin.last 25)).lower) ∧
    ∃ y : Fin 26 → Halves, y (Fin.last 25) = ⟨w.extractLsb' 0 32, w.extractLsb' 32 32⟩ ∧
      (∀ r : Fin 25, y r.castSucc = decRound T ks[r] (y r.succ)) ∧
      decryptBlock T ks w = (y 0).upper ++ (y 0).lower

/-- R87, which the spec derives: the block round-trip law, for every table and every schedule. -/
def Obligations.BlockRoundTrip : Prop :=
  ∀ (T : Sbox) (ks : Vector RoundKey 25),
    (∀ w, decryptBlock T ks (encryptBlock T ks w) = w) ∧ (∀ w, encryptBlock T ks (decryptBlock T ks w) = w) ∧
    Function.Bijective (encryptBlock T ks) ∧ Function.Bijective (decryptBlock T ks)

/-- R88, which the spec derives: the ciphers read only the `k1` of each round key. -/
def Obligations.OnlyTheUpperKeyIsRead : Prop :=
  ∀ (T : Sbox) (ks ks' : Vector RoundKey 25), (∀ r : Fin 25, ks[r].k1 = ks'[r].k1) →
    ∀ w, encryptBlock T ks w = encryptBlock T ks' w ∧ decryptBlock T ks w = decryptBlock T ks' w

/-- R89: `ENCB`. -/
def Obligations.EncbEncryptsDin : Prop :=
  encode .encb = 0x02 ∧
  (∀ s : State, s.Ready → s.ksv = true → exec .encb s = .next { s with opc := 2, busy := true }) ∧
  (∀ s : State, s.Ready → s.ksv = false → exec .encb s = .next { s with err := true, errcode := 2 }) ∧
  (∀ s : State, s.InProgress .encb → ∃ t, exec .encb s = .next t ∧
    t = { s.withWorkOf t with dout := encryptBlock s.cfg.sbox s.ks s.din, busy := false }) ∧
  encryptBlock tableEx (keyScheduleGen tableEx) 0x0000000000000000 = 0x50EA48E97BD64F10

/-- R90: `DECB`. -/
def Obligations.DecbDecryptsDin : Prop :=
  encode .decb = 0x03 ∧
  (∀ s : State, s.Ready → s.ksv = true → exec .decb s = .next { s with opc := 3, busy := true }) ∧
  (∀ s : State, s.Ready → s.ksv = false → exec .decb s = .next { s with err := true, errcode := 2 }) ∧
  (∀ s : State, s.InProgress .decb → ∃ t, exec .decb s = .next t ∧
    t = { s.withWorkOf t with dout := decryptBlock s.cfg.sbox s.ks s.din, busy := false }) ∧
  decryptBlock tableEx (keyScheduleGen tableEx) 0x50EA48E97BD64F10 = 0x0000000000000000

/-- R89 with R90 and R87: `DECB` of what `ENCB` left in `DOUT` gives `DIN` back. -/
def Obligations.DecbUndoesEncb : Prop :=
  ∀ s t s' : State, s.InProgress .encb → exec .encb s = .next t →
    s'.InProgress .decb → s'.cfg = s.cfg → s'.ks = s.ks → s'.din = t.dout →
    ∃ t', exec .decb s' = .next t' ∧ t'.dout = s.din

/-- R33: the little-endian codec. -/
def Obligations.CodecIsLittleEndian : Prop :=
  (∀ w, le64dec (le64enc w) = w) ∧ (∀ b, le64enc (le64dec b) = b) ∧
  (∀ (b : Vector Byte 8) (j : Fin 8), (le64dec b).extractLsb' (8 * j) 8 = b[j]) ∧
  (∀ (w : Word) (j : Fin 8), (le64enc w)[j] = w.extractLsb' (8 * j) 8) ∧
  (∀ b0 b1 b2 b3 b4 b5 b6 b7 : Byte, (le64dec #v[b0, b1, b2, b3, b4, b5, b6, b7]).toNat =
    b0.toNat + b1.toNat * 2 ^ 8 + b2.toNat * 2 ^ 16 + b3.toNat * 2 ^ 24 + b4.toNat * 2 ^ 32 +
      b5.toNat * 2 ^ 40 + b6.toNat * 2 ^ 48 + b7.toNat * 2 ^ 56) ∧
  le64dec #v[0x01, 0x02, 0x03, 0x04, 0x05, 0x06, 0x07, 0x08] = 0x0807060504030201

/-- What R33 and R34 mark as derived: a chunk's first four bytes are `lower` and its last four `upper`, and a one-chunk
buffer command computes on `LE64enc(w)` what the block command computes on `DIN = w`, in either direction. -/
def Obligations.BlockAndBufferCommandsAgree : Prop :=
  (∀ b0 b1 b2 b3 b4 b5 b6 b7 : Byte,
    (splitWord (le64dec #v[b0, b1, b2, b3, b4, b5, b6, b7])).lower = b3 ++ b2 ++ b1 ++ b0 ∧
    (splitWord (le64dec #v[b0, b1, b2, b3, b4, b5, b6, b7])).upper = b7 ++ b6 ++ b5 ++ b4) ∧
  ∀ (s s' : State) (i j : Instr), (i = .encb ∧ j = .encbuf ∨ i = .decb ∧ j = .decbuf) →
    s.InProgress i → s'.InProgress j → s'.cfg = s.cfg → s'.ks = s.ks → s'.len = 8 → 8 ≤ s'.cfg.bufBytes →
    (∀ a : Fin 8, s'.ibuf.lookup a = some (le64enc s.din)[a]) →
    ∃ t t', exec i s = .next t ∧ exec j s' = .next t' ∧ ∀ a : Fin 8, t'.obuf.lookup a = some (le64enc t.dout)[a]

/-- R96, R97, R105: the transform, chunk by chunk, and the tail copied, in both directions. -/
def Obligations.TransformWorksChunkByChunk : Prop :=
  ∀ (T : Sbox) (ks : Vector RoundKey 25) (d : Direction) (bytes : List Byte),
    (transform T ks d bytes).length = bytes.length ∧
    (∀ (i : Nat) (chunk : Vector Byte 8), 8 * i + 8 ≤ bytes.length → (bytes.drop (8 * i)).take 8 = chunk.toList →
      ((transform T ks d bytes).drop (8 * i)).take 8 =
        (le64enc (match d with
          | .encrypt => encryptBlock T ks (le64dec chunk)
          | .decrypt => decryptBlock T ks (le64dec chunk))).toList) ∧
    ∀ j, 8 * (bytes.length / 8) ≤ j → (transform T ks d bytes)[j]? = bytes[j]?

/-- R102: equal chunks give equal chunks, wherever they lie and whatever lies beside them. -/
def Obligations.ChunksAreIndependent : Prop :=
  ∀ (T : Sbox) (ks : Vector RoundKey 25) (d : Direction) (a b : List Byte) (i j : Nat),
    8 * i + 8 ≤ a.length → 8 * j + 8 ≤ b.length → (a.drop (8 * i)).take 8 = (b.drop (8 * j)).take 8 →
    ((transform T ks d a).drop (8 * i)).take 8 = ((transform T ks d b).drop (8 * j)).take 8

/-- R103, which D00 states in one direction and the spec derives in both: the buffer round-trip law, for every length. -/
def Obligations.BufferRoundTrip : Prop :=
  ∀ (T : Sbox) (ks : Vector RoundKey 25) (bytes : List Byte),
    transform T ks .decrypt (transform T ks .encrypt bytes) = bytes ∧
    transform T ks .encrypt (transform T ks .decrypt bytes) = bytes

/-- R99, R101: `ENCBUF`. `bytes` is what the read of `IBUF[0..LEN-1]` gave; bytes of `IBUF` nothing has written are
unspecified (R29). For a full chunk that holds such a byte R29 and U11 leave the 8 output bytes unspecified; that
they are the transform of the chunk with a drawn byte in its place is the model's choice (log entry 22). -/
def Obligations.EncbufEncryptsTheBuffer : Prop :=
  encode .encbuf = 0x04 ∧
  (∀ s : State, s.Ready → s.ksv = true → s.len.toNat ≤ s.cfg.bufBytes →
    exec .encbuf s = .next { s with opc := 4, busy := true }) ∧
  (∀ s : State, s.Ready → s.ksv = false → exec .encbuf s = .next { s with err := true, errcode := 2 }) ∧
  (∀ s : State, s.Ready → s.ksv = true → s.cfg.bufBytes < s.len.toNat →
    exec .encbuf s = .next { s with err := true, errcode := 3 }) ∧
  (∀ s : State, s.InProgress .encbuf → s.len.toNat ≤ s.cfg.bufBytes → ∃ t bytes,
    exec .encbuf s = .next t ∧ ReadsAs s.ibuf s.len.toNat bytes ∧
    t = { s.withWorkOf t with obuf := t.obuf, busy := false } ∧
    ∀ a, t.obuf.lookup a =
      if a < s.len.toNat then (transform s.cfg.sbox s.ks .encrypt bytes)[a]? else s.obuf.lookup a) ∧
  transform tableEx (keyScheduleGen tableEx) .encrypt [0x01, 0x02, 0x03, 0x04, 0x05, 0x06, 0x07, 0x08, 0xFF] =
    [0x0E, 0x2B, 0xD3, 0x5D, 0x75, 0x8B, 0x74, 0x0C, 0xFF]

/-- R100, R101: `DECBUF`. What it says of a full chunk that holds an unwritten byte is, as for `ENCBUF`, the model's
choice (log entry 22). -/
def Obligations.DecbufDecryptsTheBuffer : Prop :=
  encode .decbuf = 0x05 ∧
  (∀ s : State, s.Ready → s.ksv = true → s.len.toNat ≤ s.cfg.bufBytes →
    exec .decbuf s = .next { s with opc := 5, busy := true }) ∧
  (∀ s : State, s.Ready → s.ksv = false → exec .decbuf s = .next { s with err := true, errcode := 2 }) ∧
  (∀ s : State, s.Ready → s.ksv = true → s.cfg.bufBytes < s.len.toNat →
    exec .decbuf s = .next { s with err := true, errcode := 3 }) ∧
  (∀ s : State, s.InProgress .decbuf → s.len.toNat ≤ s.cfg.bufBytes → ∃ t bytes,
    exec .decbuf s = .next t ∧ ReadsAs s.ibuf s.len.toNat bytes ∧
    t = { s.withWorkOf t with obuf := t.obuf, busy := false } ∧
    ∀ a, t.obuf.lookup a =
      if a < s.len.toNat then (transform s.cfg.sbox s.ks .decrypt bytes)[a]? else s.obuf.lookup a) ∧
  transform tableEx (keyScheduleGen tableEx) .decrypt [0x0E, 0x2B, 0xD3, 0x5D, 0x75, 0x8B, 0x74, 0x0C, 0xFF] =
    [0x01, 0x02, 0x03, 0x04, 0x05, 0x06, 0x07, 0x08, 0xFF]

/-- R104, which the spec derives: short buffers, in both directions. The byte of `IBUF` the tail copies must have been
written. That one chunk of `LEN = 8` with unwritten bytes is the transform of drawn ones is the model's choice (log
entry 22). -/
def Obligations.ShortBuffersAreCopied : Prop :=
  ∀ (i : Instr), i = .encbuf ∨ i = .decbuf → ∀ s : State,
    (s.Ready → s.ksv = false → exec i s = .next { s with err := true, errcode := 2 }) ∧
    (s.InProgress i → s.len.toNat ≤ s.cfg.bufBytes →
      (s.len = 0 → ∃ t, exec i s = .next t ∧ t.busy = false ∧ t.obuf = s.obuf) ∧
      (s.len.toNat < 8 → ∃ t, exec i s = .next t ∧
        ∀ a b, a < s.len.toNat → s.ibuf.lookup a = some b → t.obuf.lookup a = some b) ∧
      (s.len = 8 → ∃ t, ∃ chunk : Vector Byte 8, exec i s = .next t ∧ ReadsAs s.ibuf 8 chunk.toList ∧
        ∀ j : Fin 8, t.obuf.lookup j = some
          (le64enc ((if i = .encbuf then encryptBlock else decryptBlock) s.cfg.sbox s.ks (le64dec chunk)))[j]))

/-- R100 with R99 and R103: `DECBUF` of what `ENCBUF` wrote, copied back into `IBUF` by the host (R142), gives the
bytes of `IBUF` back. For the written bytes of a full chunk that holds an unwritten one this rests on the model's choice
to transform drawn input bytes (log entry 22). -/
def Obligations.DecbufUndoesEncbuf : Prop :=
  ∀ s t s' : State, s.InProgress .encbuf → exec .encbuf s = .next t →
    s'.InProgress .decbuf → s'.cfg = s.cfg → s'.ks = s.ks → s'.len = s.len →
    (∀ a, a < s.len.toNat → s'.ibuf.lookup a = t.obuf.lookup a) →
    ∃ t', exec .decbuf s' = .next t' ∧
      ∀ a b, a < s.len.toNat → s.ibuf.lookup a = some b → t'.obuf.lookup a = some b

/-- R41: writing the chunks of the output in any order gives the same buffer. -/
def Obligations.ChunkOrderIsNotObservable : Prop :=
  ∀ (m : Memory) (out : List Byte) (order : List Nat), m.wf → order.Perm (List.range ((out.length + 7) / 8)) →
    order.foldl (fun acc i => acc.storeBytes (8 * i) ((out.drop (8 * i)).take 8)) m = m.storeBytes 0 out

/-- R11, R15 to R20, R22, R23, R25: which step can change each element of the state. -/
def Obligations.EachElementHasItsWriters : Prop :=
  ∀ s t : State, step s = .next t → ¬s.ResetNext →
    (t.din ≠ s.din → s.busy = false ∧ ∃ rest, s.script = .regWrite 2 t.din :: rest) ∧
    (t.len ≠ s.len → s.busy = false ∧ ∃ v rest, s.script = .regWrite 4 v :: rest) ∧
    (t.ibuf ≠ s.ibuf → s.busy = false ∧ ∃ a b rest, s.script = .bufWrite a b :: rest) ∧
    (t.dout ≠ s.dout → (∃ rest, s.EngineTurn rest) ∧ (s.InProgress .encb ∨ s.InProgress .decb)) ∧
    (t.obuf ≠ s.obuf → (∃ rest, s.EngineTurn rest) ∧ (s.InProgress .encbuf ∨ s.InProgress .decbuf)) ∧
    (t.ks ≠ s.ks ∨ t.ksv ≠ s.ksv → (∃ rest, s.EngineTurn rest) ∧ s.InProgress .kgen ∧ s.ksv = false) ∧
    (t.err ≠ s.err ∨ t.errcode ≠ s.errcode → s.busy = false ∧
      ∃ n v rest, s.script = .regWrite n v :: rest ∧ (n = 0 ∨ n = 1)) ∧
    (t.busy ≠ s.busy → if s.busy then ∃ rest, s.EngineTurn rest else ∃ v rest, s.script = .regWrite 0 v :: rest) ∧
    (t.opc ≠ s.opc → s.busy = false ∧ ∃ v rest, s.script = .regWrite 0 v :: rest)

/-- R106: nothing the host does, short of giving the engine its turn, lets it see or move `KS`, `OPC` or the working
registers: two states that differ only there answer every transaction alike. -/
def Obligations.HiddenStateIsHidden : Prop :=
  ∀ s s' : State, s.SameToHost s' → (∀ rest, ¬s.EngineTurn rest) →
    ∃ t t', step s = .next t ∧ step s' = .next t' ∧ t.SameToHost t' ∧ t.replies = t'.replies

/-- The state after reset meets the invariant. -/
def Obligations.ResetMeetsTheInvariant : Prop := State.reset.Inv

/-- Every step keeps the invariant, from every state that meets it. -/
def Obligations.StepKeepsTheInvariant : Prop :=
  ∀ s t : State, s.Inv → step s = .next t → t.Inv

/-- R120: under the invariant no step stops, and a completion raises no error. The two faults of the model need a state
outside it (log entries 9 and 10). -/
def Obligations.NothingFailsUnderTheInvariant : Prop :=
  (∀ s : State, s.Inv → ∃ t, step s = .next t) ∧
  (∀ s t : State, ∀ rest, s.EngineTurn rest → step s = .next t → t.err = s.err ∧ t.errcode = s.errcode) ∧
  (∀ s : State, ∀ i, i = .encbuf ∨ i = .decbuf → s.InProgress i → s.cfg.bufBytes < s.len.toNat →
    exec i s = .fault .beyondBuffer ∧ ¬s.Inv) ∧
  (∀ s : State, ∀ rest, s.EngineTurn rest → s.busy = true → s.opc = 6 ∨ s.opc = 7 →
    step s = .fault .reservedOpcode ∧ ¬s.Inv)

/-- R146: a busy engine's completion is enabled until taken and no transaction but `Reset` disables it. With a finite
script, after which the engine has the turn (the model's choices, log entries 5 and 17), `BUSY` falls: by the
completion, or by a `Reset` in the script (R137). -/
def Obligations.AcceptedCommandsComplete : Prop :=
  ∀ s : State, s.Inv → s.busy = true →
    (∀ rest, s.EngineTurn rest → ∃ t, step s = .next t ∧ t.busy = false) ∧
    (¬s.ResetNext → (∀ rest, ¬s.EngineTurn rest) → ∃ t, step s = .next t ∧ t.busy = true ∧ t.opc = s.opc) ∧
    ∃ (k : Nat) (t : State), k ≤ scriptSteps s.script + 1 ∧ Sys2Proof.core.run k s = .next t ∧ t.busy = false

/-- R91: the pipelines in micro-steps: loaded and run for 25 of them, a block command has `BUSY = 0` and the `DOUT` of
its completion step. -/
def Obligations.TwentyFiveMicroRoundsMakeABlock : Prop :=
  ∀ s : State,
    (s.InProgress .encb → let m := microRun 25 (microStart s)
      m.busy = false ∧ m.dout = encryptBlock s.cfg.sbox s.ks s.din ∧
      m = { s.withWorkOf m with dout := m.dout, busy := false }) ∧
    (s.InProgress .decb → let m := microRun 25 (microStart s)
      m.busy = false ∧ m.dout = decryptBlock s.cfg.sbox s.ks s.din ∧
      m = { s.withWorkOf m with dout := m.dout, busy := false })

/-- R112: the micro-steps of any command in progress keep `BUSY = 1` and `KSV` until the last, and end in the state of
the completion step, the working registers aside. -/
def Obligations.MicroStepsRefineTheCompletion : Prop :=
  ∀ (s : State) (i : Instr), s.Inv → s.InProgress i → ∃ (t : State) (k : Nat), exec i s = .next t ∧
    (∀ j < k, (microRun j (microStart s)).busy = true ∧ (microRun j (microStart s)).ksv = s.ksv) ∧
    microRun k (microStart s) = t.withWorkOf (microRun k (microStart s))

/-- R54: the pseudo-instructions of the host script. `wait` reads `STATUS` until the value read has bit 0 equal to 0, and
no further: every poll but the last read 1, and with `BUSY = 0` the first is the last. It ends because an accepted
command completes. Where the engine's turn stands among the polls is open (R146); that
`early` places it, and so bounds the polls, is the model's choice (log entry 17). -/
def Obligations.PseudoInstructionsExpand : Prop :=
  (∀ i, scriptCmd i = [.regWrite 0 ((encode i).setWidth 64)]) ∧ scriptCmd .encb = [.regWrite 0 0x02] ∧
  (∀ (s : State) (early : Nat) (rest : List Txn), s.Inv → s.script = scriptWait early ++ rest →
    ∃ (k : Nat) (t : State) (polls : List Word) (last : Word), k ≤ early + 3 ∧ Sys2Proof.core.run k s = .next t ∧
      t.script = rest ∧ t.busy = false ∧ t.replies = s.replies ++ (polls ++ [last]).map (.reg 1) ∧
      (∀ v ∈ polls, v.getLsbD 0 = true) ∧ last.getLsbD 0 = false ∧ (s.busy = false → polls = [] ∧ k = 1)) ∧
  scriptClrerr = [.regWrite 1 0x04] ∧
  (∀ (a j : Nat) (bs : List Byte), (scriptFill a bs)[j]? = bs[j]?.map (.bufWrite (a + j))) ∧
  ∀ (sp : Space) (a n j : Nat), (scriptDump sp a n)[j]? = if j < n then some (.bufRead sp (a + j)) else none

/-- R54: what one poll of `wait` does, in every state: `STATUS` is read, the engine is left alone, and the loop goes on
exactly while the value read has bit 0 equal to 1. The value is recorded as the read of `STATUS` records it (log entry
11), and `early` places the engine's turn (log entry 17). -/
def Obligations.WaitPollsOnePollAStep : Prop :=
  ∀ (s : State) (early : Nat) (rest : List Txn), s.script = .wait early :: rest →
    let v : Word := (0#3 ++ s.errcode ++ BitVec.ofBool s.err ++ BitVec.ofBool s.ksv ++
      BitVec.ofBool s.busy : BitVec 8).setWidth 64
    ∃ rest', step s = .next { s with script := rest', replies := s.replies ++ [.reg 1 v] } ∧
      (v.getLsbD 0 = false → rest' = rest) ∧
      (v.getLsbD 0 = true → rest' = match early with
        | 0 => .idle :: .wait 0 :: rest
        | n + 1 => .wait n :: rest)
end

