-- ==== Sys2Proof/Laws/Bits.lean ====
section
/-! SUPPORT. Bits of the concatenations the datapath makes, at the widths it makes them (the width of the whole is
written as one number there, so the library's lemma about a sum of widths does not match by itself), and equality of
values bit by bit, nibble by nibble and byte by byte. -/

namespace Sys2Proof.Machine

/-- `U ++ L` (R78). -/
@[simp] theorem getLsbD_halves (u l : Half) (i : Nat) :
    (u ++ l : Word).getLsbD i = if i < 32 then l.getLsbD i else u.getLsbD (i - 32) :=
  BitVec.getLsbD_append

/-- `K1W[63:8] ++ byte` (R69). -/
@[simp] theorem getLsbD_highAndByte (x : BitVec 56) (b : Byte) (i : Nat) :
    (x ++ b : Word).getLsbD i = if i < 8 then b.getLsbD i else x.getLsbD (i - 8) :=
  BitVec.getLsbD_append

/-- `rc ++ K1W[58:0]` (R70). -/
@[simp] theorem getLsbD_constantAndLow (c : BitVec 5) (x : BitVec 59) (i : Nat) :
    (c ++ x : Word).getLsbD i = if i < 59 then x.getLsbD i else c.getLsbD (i - 59) :=
  BitVec.getLsbD_append

/-- Two nibbles as a byte (R62). -/
@[simp] theorem getLsbD_nibblePair (x y : Nibble) (i : Nat) :
    (x ++ y : Byte).getLsbD i = if i < 4 then y.getLsbD i else x.getLsbD (i - 4) :=
  BitVec.getLsbD_append

/-- Seven nibbles above an eighth (R61). -/
@[simp] theorem getLsbD_nibbles (x : BitVec (4 + 4 + 4 + 4 + 4 + 4 + 4)) (y : Nibble) (i : Nat) :
    (x ++ y : Half).getLsbD i = if i < 4 then y.getLsbD i else x.getLsbD (i - 4) :=
  BitVec.getLsbD_append

/-- Seven bytes above an eighth (R33). -/
@[simp] theorem getLsbD_bytes (x : BitVec (8 + 8 + 8 + 8 + 8 + 8 + 8)) (y : Byte) (i : Nat) :
    (x ++ y : Word).getLsbD i = if i < 8 then y.getLsbD i else x.getLsbD (i - 8) :=
  BitVec.getLsbD_append

theorem half_eq_of_nibbles {a b : Half} (h : ∀ j : Fin 8, a.extractLsb' (4 * j) 4 = b.extractLsb' (4 * j) 4) :
    a = b := by
  refine BitVec.eq_of_getLsbD_eq fun i hi => ?_
  have := congrArg (fun x => BitVec.getLsbD x (i % 4)) (h ⟨i / 4, by omega⟩)
  simpa [show i % 4 < 4 by omega, show 4 * (i / 4) + i % 4 = i by omega] using this

theorem word_eq_of_bytes {a b : Word} (h : ∀ j : Fin 8, a.extractLsb' (8 * j) 8 = b.extractLsb' (8 * j) 8) :
    a = b := by
  refine BitVec.eq_of_getLsbD_eq fun i hi => ?_
  have := congrArg (fun x => BitVec.getLsbD x (i % 8)) (h ⟨i / 8, by omega⟩)
  simpa [show i % 8 < 8 by omega, show 8 * (i / 8) + i % 8 = i by omega] using this

theorem joinHalves_splitWord (w : Word) : joinHalves (splitWord w) = w := by
  refine BitVec.eq_of_getLsbD_eq fun i hi => ?_
  simp only [joinHalves, splitWord, getLsbD_halves, BitVec.getLsbD_extractLsb']
  split
  · simp [*]
  · rw [show 32 + (i - 32) = i by omega]; simp; omega

theorem splitWord_joinHalves (x : Halves) : splitWord (joinHalves x) = x := by
  obtain ⟨l, u⟩ := x
  simp only [joinHalves, splitWord, Halves.mk.injEq]
  constructor <;> refine BitVec.eq_of_getLsbD_eq fun i hi => ?_ <;>
    simp only [getLsbD_halves, BitVec.getLsbD_extractLsb'] <;> simp [hi]

end Sys2Proof.Machine
end

