-- ==== Sys2Proof/Laws/Memory.lean ====
section
/-! SUPPORT. What the memory operations do: a read after a write, what a write leaves alone, and that every operation
keeps the canonical form. -/

namespace Sys2Proof.Machine

@[simp] theorem lookup_store (m : Memory) (a a' : Nat) (b : Byte) :
    (m.store a b).lookup a' = if a' = a then some b else m.lookup a' := by
  induction m with
  | nil => simp [Memory.store, Memory.lookup, eq_comm]
  | cons c m ih =>
    obtain ⟨k, v⟩ := c
    simp only [Memory.store]
    split
    · simp [Memory.lookup, eq_comm]
    · split
      · subst_vars
        simp only [Memory.lookup, eq_comm]
        split <;> rfl
      · simp only [Memory.lookup, ih]
        by_cases hk : k = a' <;> by_cases ha : a' = a <;> simp_all

theorem mem_store {m : Memory} {a : Nat} {b : Byte} {c : Host.Cell} (h : c ∈ m.store a b) :
    c = (a, b) ∨ c ∈ m := by
  induction m with
  | nil => simpa [Memory.store] using h
  | cons d m ih =>
    obtain ⟨k, v⟩ := d
    simp only [Memory.store] at h
    split at h
    · simpa using h
    · split at h
      · exact (List.mem_cons.1 h).imp_right (List.mem_cons_of_mem _)
      · rcases List.mem_cons.1 h with rfl | h
        · exact .inr List.mem_cons_self
        · exact (ih h).imp_right (List.mem_cons_of_mem _)

theorem store_wf {m : Memory} (hm : m.wf) (a : Nat) (b : Byte) : (m.store a b).wf := by
  induction m with
  | nil => simp [Memory.store]
  | cons c m ih =>
    obtain ⟨k, v⟩ := c
    obtain ⟨hk, hm'⟩ := List.pairwise_cons.1 hm
    simp only [Memory.store]
    split
    · next h =>
      refine List.pairwise_cons.2 ⟨fun d hd => ?_, hm⟩
      rcases List.mem_cons.1 hd with rfl | hd
      · exact h
      · exact lt_trans h (hk d hd)
    · split
      · next h => subst h; exact List.pairwise_cons.2 ⟨hk, hm'⟩
      · next h1 h2 =>
        refine List.pairwise_cons.2 ⟨fun d hd => ?_, ih hm'⟩
        rcases mem_store hd with rfl | hd
        · exact Nat.lt_of_le_of_ne (Nat.le_of_not_lt h1) (Ne.symm h2)
        · exact hk d hd

theorem store_within {m : Memory} {n a : Nat} (hm : m.within n) (ha : a < n) (b : Byte) :
    (m.store a b).within n := by
  intro c hc
  rcases mem_store hc with rfl | hc
  · exact ha
  · exact hm c hc

theorem storeBytes_wf {m : Memory} (hm : m.wf) (a : Nat) (bs : List Byte) : (m.storeBytes a bs).wf := by
  induction bs generalizing m a with
  | nil => exact hm
  | cons b bs ih => exact ih (store_wf hm a b) (a + 1)

theorem storeBytes_within {m : Memory} {n a : Nat} {bs : List Byte} (hm : m.within n) (ha : a + bs.length ≤ n) :
    (m.storeBytes a bs).within n := by
  induction bs generalizing m a with
  | nil => exact hm
  | cons b bs ih =>
    simp only [List.length_cons] at ha
    exact ih (store_within hm (by omega) b) (by omega)

/-- Everything `MemWrite` does (R8): the bytes written, and every other byte as before. -/
theorem lookup_storeBytes (m : Memory) (a : Nat) (bs : List Byte) (a' : Nat) :
    (m.storeBytes a bs).lookup a' =
      if a ≤ a' ∧ a' < a + bs.length then bs[a' - a]? else m.lookup a' := by
  induction bs generalizing m a with
  | nil => simp only [Memory.storeBytes, List.length_nil]; rw [if_neg (by omega)]
  | cons b bs ih =>
    simp only [Memory.storeBytes, ih, lookup_store, List.length_cons]
    by_cases h : a' = a
    · subst h; simp
    · by_cases h2 : a + 1 ≤ a' ∧ a' < a + 1 + bs.length
      · rw [if_pos h2, if_pos (by omega), show a' - a = (a' - (a + 1)) + 1 by omega, List.getElem?_cons_succ]
      · rw [if_neg h2, if_neg h, if_neg (by omega)]

@[simp] theorem memRead_length (m : Memory) (a n d : Nat) : (memRead m a n d).length = n := by
  simp [memRead]

theorem memRead_getElem? (m : Memory) (a n d j : Nat) (hj : j < n) :
    (memRead m a n d)[j]? = some (readByte m (a + j) (d + j)) := by
  simp [memRead, List.getElem?_map, List.getElem?_range hj]

theorem readByte_of_lookup {m : Memory} {a d : Nat} {b : Byte} (h : m.lookup a = some b) :
    readByte m a d = b := by
  simp [readByte, h]

theorem lookup_none_of_lt {m : Memory} {a : Nat} (h : ∀ c ∈ m, a < c.1) : m.lookup a = none := by
  induction m with
  | nil => rfl
  | cons c m ih =>
    have hc := h c List.mem_cons_self
    simp only [Memory.lookup]
    rw [if_neg (by omega)]
    exact ih fun d hd => h d (List.mem_cons_of_mem _ hd)

/-- Canonical memories that read alike are equal data. -/
theorem Memory.eq_of_lookup {m m' : Memory} (hm : m.wf) (hm' : m'.wf)
    (h : ∀ a, m.lookup a = m'.lookup a) : m = m' := by
  induction m generalizing m' with
  | nil =>
    cases m' with
    | nil => rfl
    | cons c m' => simpa [Memory.lookup] using h c.1
  | cons c m ih =>
    cases m' with
    | nil => simpa [Memory.lookup] using h c.1
    | cons c' m' =>
      obtain ⟨k, v⟩ := c
      obtain ⟨k', v'⟩ := c'
      obtain ⟨hk, hwf⟩ := List.pairwise_cons.1 hm
      obtain ⟨hk', hwf'⟩ := List.pairwise_cons.1 hm'
      have hkk : k = k' := by
        rcases Nat.lt_trichotomy k k' with hlt | heq | hlt
        · have := h k
          rw [lookup_none_of_lt (m := (k', v') :: m') (by
            intro d hd
            rcases List.mem_cons.1 hd with rfl | hd
            · exact hlt
            · exact lt_trans hlt (hk' d hd))] at this
          simp [Memory.lookup] at this
        · exact heq
        · have := h k'
          rw [lookup_none_of_lt (m := (k, v) :: m) (by
            intro d hd
            rcases List.mem_cons.1 hd with rfl | hd
            · exact hlt
            · exact lt_trans hlt (hk d hd))] at this
          simp [Memory.lookup] at this
      subst hkk
      have hv : v = v' := by simpa [Memory.lookup] using h k
      subst hv
      congr 1
      refine ih hwf hwf' fun a => ?_
      by_cases ha : k = a
      · subst ha
        rw [lookup_none_of_lt hk, lookup_none_of_lt hk']
      · simpa [Memory.lookup, ha] using h a

end Sys2Proof.Machine
end

