-- ==== Sys2Proof/Laws/State.lean ====
section
/-! SUPPORT. The fields of a state after each shared update: one lemma per field and update. -/

namespace Sys2Proof.Machine

/-! `scrambleWork`: working registers unspecified (R26). -/

@[simp] theorem scrambleWork_cfg (s : State) : (scrambleWork s).cfg = s.cfg := rfl
@[simp] theorem scrambleWork_ks (s : State) : (scrambleWork s).ks = s.ks := rfl
@[simp] theorem scrambleWork_busy (s : State) : (scrambleWork s).busy = s.busy := rfl
@[simp] theorem scrambleWork_ksv (s : State) : (scrambleWork s).ksv = s.ksv := rfl
@[simp] theorem scrambleWork_err (s : State) : (scrambleWork s).err = s.err := rfl
@[simp] theorem scrambleWork_errcode (s : State) : (scrambleWork s).errcode = s.errcode := rfl
@[simp] theorem scrambleWork_din (s : State) : (scrambleWork s).din = s.din := rfl
@[simp] theorem scrambleWork_dout (s : State) : (scrambleWork s).dout = s.dout := rfl
@[simp] theorem scrambleWork_len (s : State) : (scrambleWork s).len = s.len := rfl
@[simp] theorem scrambleWork_ibuf (s : State) : (scrambleWork s).ibuf = s.ibuf := rfl
@[simp] theorem scrambleWork_obuf (s : State) : (scrambleWork s).obuf = s.obuf := rfl
@[simp] theorem scrambleWork_opc (s : State) : (scrambleWork s).opc = s.opc := rfl
@[simp] theorem scrambleWork_k0w (s : State) : (scrambleWork s).k0w = Config.freeBits 64 s.draws := rfl
@[simp] theorem scrambleWork_k1w (s : State) : (scrambleWork s).k1w = Config.freeBits 64 (s.draws + 1) := rfl
@[simp] theorem scrambleWork_l (s : State) : (scrambleWork s).l = Config.freeBits 32 (s.draws + 2) := rfl
@[simp] theorem scrambleWork_u (s : State) : (scrambleWork s).u = Config.freeBits 32 (s.draws + 3) := rfl
@[simp] theorem scrambleWork_rnd (s : State) : (scrambleWork s).rnd = Config.freeBits 5 (s.draws + 4) := rfl
@[simp] theorem scrambleWork_chk (s : State) : (scrambleWork s).chk = Config.freeBits 32 (s.draws + 5) := rfl
@[simp] theorem scrambleWork_script (s : State) : (scrambleWork s).script = s.script := rfl
@[simp] theorem scrambleWork_replies (s : State) : (scrambleWork s).replies = s.replies := rfl
@[simp] theorem scrambleWork_draws (s : State) : (scrambleWork s).draws = s.draws + 6 := rfl

/-! `setScript`: the script moves on (R106). -/

@[simp] theorem setScript_cfg (rest : List Txn) (s : State) : (setScript rest s).cfg = s.cfg := rfl
@[simp] theorem setScript_ks (rest : List Txn) (s : State) : (setScript rest s).ks = s.ks := rfl
@[simp] theorem setScript_busy (rest : List Txn) (s : State) : (setScript rest s).busy = s.busy := rfl
@[simp] theorem setScript_ksv (rest : List Txn) (s : State) : (setScript rest s).ksv = s.ksv := rfl
@[simp] theorem setScript_err (rest : List Txn) (s : State) : (setScript rest s).err = s.err := rfl
@[simp] theorem setScript_errcode (rest : List Txn) (s : State) : (setScript rest s).errcode = s.errcode := rfl
@[simp] theorem setScript_din (rest : List Txn) (s : State) : (setScript rest s).din = s.din := rfl
@[simp] theorem setScript_dout (rest : List Txn) (s : State) : (setScript rest s).dout = s.dout := rfl
@[simp] theorem setScript_len (rest : List Txn) (s : State) : (setScript rest s).len = s.len := rfl
@[simp] theorem setScript_ibuf (rest : List Txn) (s : State) : (setScript rest s).ibuf = s.ibuf := rfl
@[simp] theorem setScript_obuf (rest : List Txn) (s : State) : (setScript rest s).obuf = s.obuf := rfl
@[simp] theorem setScript_opc (rest : List Txn) (s : State) : (setScript rest s).opc = s.opc := rfl
@[simp] theorem setScript_k0w (rest : List Txn) (s : State) : (setScript rest s).k0w = s.k0w := rfl
@[simp] theorem setScript_k1w (rest : List Txn) (s : State) : (setScript rest s).k1w = s.k1w := rfl
@[simp] theorem setScript_l (rest : List Txn) (s : State) : (setScript rest s).l = s.l := rfl
@[simp] theorem setScript_u (rest : List Txn) (s : State) : (setScript rest s).u = s.u := rfl
@[simp] theorem setScript_rnd (rest : List Txn) (s : State) : (setScript rest s).rnd = s.rnd := rfl
@[simp] theorem setScript_chk (rest : List Txn) (s : State) : (setScript rest s).chk = s.chk := rfl
@[simp] theorem setScript_script (rest : List Txn) (s : State) : (setScript rest s).script = rest := rfl
@[simp] theorem setScript_replies (rest : List Txn) (s : State) : (setScript rest s).replies = s.replies := rfl
@[simp] theorem setScript_draws (rest : List Txn) (s : State) : (setScript rest s).draws = s.draws := rfl

/-! `raiseErr`: error entry (R122). -/

@[simp] theorem raiseErr_cfg (c : ErrCause) (s : State) : (raiseErr c s).cfg = s.cfg := rfl
@[simp] theorem raiseErr_ks (c : ErrCause) (s : State) : (raiseErr c s).ks = s.ks := rfl
@[simp] theorem raiseErr_busy (c : ErrCause) (s : State) : (raiseErr c s).busy = s.busy := rfl
@[simp] theorem raiseErr_ksv (c : ErrCause) (s : State) : (raiseErr c s).ksv = s.ksv := rfl
@[simp] theorem raiseErr_err (c : ErrCause) (s : State) : (raiseErr c s).err = true := rfl
@[simp] theorem raiseErr_errcode (c : ErrCause) (s : State) : (raiseErr c s).errcode = errCode c := rfl
@[simp] theorem raiseErr_din (c : ErrCause) (s : State) : (raiseErr c s).din = s.din := rfl
@[simp] theorem raiseErr_dout (c : ErrCause) (s : State) : (raiseErr c s).dout = s.dout := rfl
@[simp] theorem raiseErr_len (c : ErrCause) (s : State) : (raiseErr c s).len = s.len := rfl
@[simp] theorem raiseErr_ibuf (c : ErrCause) (s : State) : (raiseErr c s).ibuf = s.ibuf := rfl
@[simp] theorem raiseErr_obuf (c : ErrCause) (s : State) : (raiseErr c s).obuf = s.obuf := rfl
@[simp] theorem raiseErr_opc (c : ErrCause) (s : State) : (raiseErr c s).opc = s.opc := rfl
@[simp] theorem raiseErr_k0w (c : ErrCause) (s : State) : (raiseErr c s).k0w = s.k0w := rfl
@[simp] theorem raiseErr_k1w (c : ErrCause) (s : State) : (raiseErr c s).k1w = s.k1w := rfl
@[simp] theorem raiseErr_l (c : ErrCause) (s : State) : (raiseErr c s).l = s.l := rfl
@[simp] theorem raiseErr_u (c : ErrCause) (s : State) : (raiseErr c s).u = s.u := rfl
@[simp] theorem raiseErr_rnd (c : ErrCause) (s : State) : (raiseErr c s).rnd = s.rnd := rfl
@[simp] theorem raiseErr_chk (c : ErrCause) (s : State) : (raiseErr c s).chk = s.chk := rfl
@[simp] theorem raiseErr_script (c : ErrCause) (s : State) : (raiseErr c s).script = s.script := rfl
@[simp] theorem raiseErr_replies (c : ErrCause) (s : State) : (raiseErr c s).replies = s.replies := rfl
@[simp] theorem raiseErr_draws (c : ErrCause) (s : State) : (raiseErr c s).draws = s.draws := rfl

/-! `clearErr`: error return (R128). -/

@[simp] theorem clearErr_cfg (s : State) : (clearErr s).cfg = s.cfg := rfl
@[simp] theorem clearErr_ks (s : State) : (clearErr s).ks = s.ks := rfl
@[simp] theorem clearErr_busy (s : State) : (clearErr s).busy = s.busy := rfl
@[simp] theorem clearErr_ksv (s : State) : (clearErr s).ksv = s.ksv := rfl
@[simp] theorem clearErr_err (s : State) : (clearErr s).err = false := rfl
@[simp] theorem clearErr_errcode (s : State) : (clearErr s).errcode = 0 := rfl
@[simp] theorem clearErr_din (s : State) : (clearErr s).din = s.din := rfl
@[simp] theorem clearErr_dout (s : State) : (clearErr s).dout = s.dout := rfl
@[simp] theorem clearErr_len (s : State) : (clearErr s).len = s.len := rfl
@[simp] theorem clearErr_ibuf (s : State) : (clearErr s).ibuf = s.ibuf := rfl
@[simp] theorem clearErr_obuf (s : State) : (clearErr s).obuf = s.obuf := rfl
@[simp] theorem clearErr_opc (s : State) : (clearErr s).opc = s.opc := rfl
@[simp] theorem clearErr_k0w (s : State) : (clearErr s).k0w = s.k0w := rfl
@[simp] theorem clearErr_k1w (s : State) : (clearErr s).k1w = s.k1w := rfl
@[simp] theorem clearErr_l (s : State) : (clearErr s).l = s.l := rfl
@[simp] theorem clearErr_u (s : State) : (clearErr s).u = s.u := rfl
@[simp] theorem clearErr_rnd (s : State) : (clearErr s).rnd = s.rnd := rfl
@[simp] theorem clearErr_chk (s : State) : (clearErr s).chk = s.chk := rfl
@[simp] theorem clearErr_script (s : State) : (clearErr s).script = s.script := rfl
@[simp] theorem clearErr_replies (s : State) : (clearErr s).replies = s.replies := rfl
@[simp] theorem clearErr_draws (s : State) : (clearErr s).draws = s.draws := rfl

/-! `accept`: acceptance (R108 line 4). -/

@[simp] theorem accept_cfg (i : Instr) (s : State) : (accept i s).cfg = s.cfg := rfl
@[simp] theorem accept_ks (i : Instr) (s : State) : (accept i s).ks = s.ks := rfl
@[simp] theorem accept_busy (i : Instr) (s : State) : (accept i s).busy = true := rfl
@[simp] theorem accept_ksv (i : Instr) (s : State) : (accept i s).ksv = s.ksv := rfl
@[simp] theorem accept_err (i : Instr) (s : State) : (accept i s).err = s.err := rfl
@[simp] theorem accept_errcode (i : Instr) (s : State) : (accept i s).errcode = s.errcode := rfl
@[simp] theorem accept_din (i : Instr) (s : State) : (accept i s).din = s.din := rfl
@[simp] theorem accept_dout (i : Instr) (s : State) : (accept i s).dout = s.dout := rfl
@[simp] theorem accept_len (i : Instr) (s : State) : (accept i s).len = s.len := rfl
@[simp] theorem accept_ibuf (i : Instr) (s : State) : (accept i s).ibuf = s.ibuf := rfl
@[simp] theorem accept_obuf (i : Instr) (s : State) : (accept i s).obuf = s.obuf := rfl
@[simp] theorem accept_opc (i : Instr) (s : State) : (accept i s).opc = opcode i := rfl
@[simp] theorem accept_k0w (i : Instr) (s : State) : (accept i s).k0w = s.k0w := rfl
@[simp] theorem accept_k1w (i : Instr) (s : State) : (accept i s).k1w = s.k1w := rfl
@[simp] theorem accept_l (i : Instr) (s : State) : (accept i s).l = s.l := rfl
@[simp] theorem accept_u (i : Instr) (s : State) : (accept i s).u = s.u := rfl
@[simp] theorem accept_rnd (i : Instr) (s : State) : (accept i s).rnd = s.rnd := rfl
@[simp] theorem accept_chk (i : Instr) (s : State) : (accept i s).chk = s.chk := rfl
@[simp] theorem accept_script (i : Instr) (s : State) : (accept i s).script = s.script := rfl
@[simp] theorem accept_replies (i : Instr) (s : State) : (accept i s).replies = s.replies := rfl
@[simp] theorem accept_draws (i : Instr) (s : State) : (accept i s).draws = s.draws := rfl

/-! `finish`: the end of a completion step (R111). -/

@[simp] theorem finish_cfg (s : State) : (finish s).cfg = s.cfg := rfl
@[simp] theorem finish_ks (s : State) : (finish s).ks = s.ks := rfl
@[simp] theorem finish_busy (s : State) : (finish s).busy = false := rfl
@[simp] theorem finish_ksv (s : State) : (finish s).ksv = s.ksv := rfl
@[simp] theorem finish_err (s : State) : (finish s).err = s.err := rfl
@[simp] theorem finish_errcode (s : State) : (finish s).errcode = s.errcode := rfl
@[simp] theorem finish_din (s : State) : (finish s).din = s.din := rfl
@[simp] theorem finish_dout (s : State) : (finish s).dout = s.dout := rfl
@[simp] theorem finish_len (s : State) : (finish s).len = s.len := rfl
@[simp] theorem finish_ibuf (s : State) : (finish s).ibuf = s.ibuf := rfl
@[simp] theorem finish_obuf (s : State) : (finish s).obuf = s.obuf := rfl
@[simp] theorem finish_opc (s : State) : (finish s).opc = s.opc := rfl
@[simp] theorem finish_script (s : State) : (finish s).script = s.script := rfl
@[simp] theorem finish_replies (s : State) : (finish s).replies = s.replies := rfl
@[simp] theorem finish_draws (s : State) : (finish s).draws = s.draws + 6 := rfl

/-! `addReply`: a read's reply (R107). -/

@[simp] theorem addReply_cfg (r : Reply) (s : State) : (addReply r s).cfg = s.cfg := rfl
@[simp] theorem addReply_ks (r : Reply) (s : State) : (addReply r s).ks = s.ks := rfl
@[simp] theorem addReply_busy (r : Reply) (s : State) : (addReply r s).busy = s.busy := rfl
@[simp] theorem addReply_ksv (r : Reply) (s : State) : (addReply r s).ksv = s.ksv := rfl
@[simp] theorem addReply_err (r : Reply) (s : State) : (addReply r s).err = s.err := rfl
@[simp] theorem addReply_errcode (r : Reply) (s : State) : (addReply r s).errcode = s.errcode := rfl
@[simp] theorem addReply_din (r : Reply) (s : State) : (addReply r s).din = s.din := rfl
@[simp] theorem addReply_dout (r : Reply) (s : State) : (addReply r s).dout = s.dout := rfl
@[simp] theorem addReply_len (r : Reply) (s : State) : (addReply r s).len = s.len := rfl
@[simp] theorem addReply_ibuf (r : Reply) (s : State) : (addReply r s).ibuf = s.ibuf := rfl
@[simp] theorem addReply_obuf (r : Reply) (s : State) : (addReply r s).obuf = s.obuf := rfl
@[simp] theorem addReply_opc (r : Reply) (s : State) : (addReply r s).opc = s.opc := rfl
@[simp] theorem addReply_k0w (r : Reply) (s : State) : (addReply r s).k0w = s.k0w := rfl
@[simp] theorem addReply_k1w (r : Reply) (s : State) : (addReply r s).k1w = s.k1w := rfl
@[simp] theorem addReply_l (r : Reply) (s : State) : (addReply r s).l = s.l := rfl
@[simp] theorem addReply_u (r : Reply) (s : State) : (addReply r s).u = s.u := rfl
@[simp] theorem addReply_rnd (r : Reply) (s : State) : (addReply r s).rnd = s.rnd := rfl
@[simp] theorem addReply_chk (r : Reply) (s : State) : (addReply r s).chk = s.chk := rfl
@[simp] theorem addReply_script (r : Reply) (s : State) : (addReply r s).script = s.script := rfl
@[simp] theorem addReply_replies (r : Reply) (s : State) : (addReply r s).replies = s.replies ++ [r] := rfl
@[simp] theorem addReply_draws (r : Reply) (s : State) : (addReply r s).draws = s.draws := rfl

/-! `countDraw`: one free value drawn (R8). -/

@[simp] theorem countDraw_cfg (s : State) : (countDraw s).cfg = s.cfg := rfl
@[simp] theorem countDraw_ks (s : State) : (countDraw s).ks = s.ks := rfl
@[simp] theorem countDraw_busy (s : State) : (countDraw s).busy = s.busy := rfl
@[simp] theorem countDraw_ksv (s : State) : (countDraw s).ksv = s.ksv := rfl
@[simp] theorem countDraw_err (s : State) : (countDraw s).err = s.err := rfl
@[simp] theorem countDraw_errcode (s : State) : (countDraw s).errcode = s.errcode := rfl
@[simp] theorem countDraw_din (s : State) : (countDraw s).din = s.din := rfl
@[simp] theorem countDraw_dout (s : State) : (countDraw s).dout = s.dout := rfl
@[simp] theorem countDraw_len (s : State) : (countDraw s).len = s.len := rfl
@[simp] theorem countDraw_ibuf (s : State) : (countDraw s).ibuf = s.ibuf := rfl
@[simp] theorem countDraw_obuf (s : State) : (countDraw s).obuf = s.obuf := rfl
@[simp] theorem countDraw_opc (s : State) : (countDraw s).opc = s.opc := rfl
@[simp] theorem countDraw_k0w (s : State) : (countDraw s).k0w = s.k0w := rfl
@[simp] theorem countDraw_k1w (s : State) : (countDraw s).k1w = s.k1w := rfl
@[simp] theorem countDraw_l (s : State) : (countDraw s).l = s.l := rfl
@[simp] theorem countDraw_u (s : State) : (countDraw s).u = s.u := rfl
@[simp] theorem countDraw_rnd (s : State) : (countDraw s).rnd = s.rnd := rfl
@[simp] theorem countDraw_chk (s : State) : (countDraw s).chk = s.chk := rfl
@[simp] theorem countDraw_script (s : State) : (countDraw s).script = s.script := rfl
@[simp] theorem countDraw_replies (s : State) : (countDraw s).replies = s.replies := rfl
@[simp] theorem countDraw_draws (s : State) : (countDraw s).draws = s.draws + 1 := rfl

/-! The state after a reset (R136): the fields the spec gives a value, the configuration, and the model's own. -/

@[simp] theorem afterReset_cfg (cfg : Config) (script : List Txn) (replies : List Reply) (d : Nat) :
    (State.afterReset cfg script replies d).cfg = cfg := rfl
@[simp] theorem afterReset_busy (cfg : Config) (script : List Txn) (replies : List Reply) (d : Nat) :
    (State.afterReset cfg script replies d).busy = false := rfl
@[simp] theorem afterReset_ksv (cfg : Config) (script : List Txn) (replies : List Reply) (d : Nat) :
    (State.afterReset cfg script replies d).ksv = false := rfl
@[simp] theorem afterReset_err (cfg : Config) (script : List Txn) (replies : List Reply) (d : Nat) :
    (State.afterReset cfg script replies d).err = false := rfl
@[simp] theorem afterReset_errcode (cfg : Config) (script : List Txn) (replies : List Reply) (d : Nat) :
    (State.afterReset cfg script replies d).errcode = 0 := rfl
@[simp] theorem afterReset_din (cfg : Config) (script : List Txn) (replies : List Reply) (d : Nat) :
    (State.afterReset cfg script replies d).din = 0 := rfl
@[simp] theorem afterReset_dout (cfg : Config) (script : List Txn) (replies : List Reply) (d : Nat) :
    (State.afterReset cfg script replies d).dout = 0 := rfl
@[simp] theorem afterReset_len (cfg : Config) (script : List Txn) (replies : List Reply) (d : Nat) :
    (State.afterReset cfg script replies d).len = 0 := rfl
@[simp] theorem afterReset_ibuf (cfg : Config) (script : List Txn) (replies : List Reply) (d : Nat) :
    (State.afterReset cfg script replies d).ibuf = [] := rfl
@[simp] theorem afterReset_obuf (cfg : Config) (script : List Txn) (replies : List Reply) (d : Nat) :
    (State.afterReset cfg script replies d).obuf = [] := rfl
@[simp] theorem afterReset_script (cfg : Config) (script : List Txn) (replies : List Reply) (d : Nat) :
    (State.afterReset cfg script replies d).script = script := rfl
@[simp] theorem afterReset_replies (cfg : Config) (script : List Txn) (replies : List Reply) (d : Nat) :
    (State.afterReset cfg script replies d).replies = replies := rfl

@[simp] theorem resetEngine_cfg (s : State) : (resetEngine s).cfg = s.cfg :=
  afterReset_cfg s.cfg s.script s.replies s.draws
@[simp] theorem resetEngine_busy (s : State) : (resetEngine s).busy = false :=
  afterReset_busy s.cfg s.script s.replies s.draws
@[simp] theorem resetEngine_ksv (s : State) : (resetEngine s).ksv = false :=
  afterReset_ksv s.cfg s.script s.replies s.draws
@[simp] theorem resetEngine_err (s : State) : (resetEngine s).err = false :=
  afterReset_err s.cfg s.script s.replies s.draws
@[simp] theorem resetEngine_errcode (s : State) : (resetEngine s).errcode = 0 :=
  afterReset_errcode s.cfg s.script s.replies s.draws
@[simp] theorem resetEngine_din (s : State) : (resetEngine s).din = 0 :=
  afterReset_din s.cfg s.script s.replies s.draws
@[simp] theorem resetEngine_dout (s : State) : (resetEngine s).dout = 0 :=
  afterReset_dout s.cfg s.script s.replies s.draws
@[simp] theorem resetEngine_len (s : State) : (resetEngine s).len = 0 :=
  afterReset_len s.cfg s.script s.replies s.draws
@[simp] theorem resetEngine_ibuf (s : State) : (resetEngine s).ibuf = [] :=
  afterReset_ibuf s.cfg s.script s.replies s.draws
@[simp] theorem resetEngine_obuf (s : State) : (resetEngine s).obuf = [] :=
  afterReset_obuf s.cfg s.script s.replies s.draws
@[simp] theorem resetEngine_script (s : State) : (resetEngine s).script = s.script :=
  afterReset_script s.cfg s.script s.replies s.draws
@[simp] theorem resetEngine_replies (s : State) : (resetEngine s).replies = s.replies :=
  afterReset_replies s.cfg s.script s.replies s.draws

end Sys2Proof.Machine
end

