-- ==== Sys2Proof/Laws/Ops.lean ====
section
/-! SUPPORT. What each shared operation can answer, said once: issuing, the two stages of a command, the engine's turn,
a command word, a step. -/

namespace Sys2Proof.Machine

/-- Decoding an opcode gives back its command. -/
@[simp] theorem decodeOp_opcode (i : Instr) : decodeOp (opcode i) = some i := by
  cases i <;> rfl

theorem opcode_of_decodeOp {c : BitVec 3} {i : Instr} (h : decodeOp c = some i) : c = opcode i := by
  revert h
  revert i c
  decide

theorem opcode_injective {i j : Instr} (h : opcode i = opcode j) : i = j := by
  simpa using congrArg decodeOp h

/-- Everything issuing a command can do (R108 lines 2 to 4, R109 (b)). -/
theorem issue_cases (i : Instr) (s : State) :
    (s.err = true ∧ issue i s = s) ∨
    (s.err = false ∧ needsKey i = true ∧ s.ksv = false ∧ issue i s = raiseErr .keyNotReady s) ∨
    (s.err = false ∧ (needsKey i = true → s.ksv = true) ∧ needsLength i = true ∧
      s.cfg.bufBytes < s.len.toNat ∧ issue i s = raiseErr .lengthRange s) ∨
    (s.err = false ∧ (needsKey i = true → s.ksv = true) ∧
      (needsLength i = true → s.len.toNat ≤ s.cfg.bufBytes) ∧ issue i s = accept i s) := by
  unfold issue
  cases he : s.err
  · cases hk : needsKey i <;> cases hv : s.ksv <;> cases hl : needsLength i <;>
      by_cases hb : s.cfg.bufBytes < s.len.toNat <;> simp [hb] <;> omega
  · simp

/-- The step that carries a command out (R111). -/
def complete : Instr → State → Result
  | .nop => completeNop
  | .kgen => completeKgen
  | .encb => completeEncb
  | .decb => completeDecb
  | .encbuf => completeBuffer .encrypt
  | .decbuf => completeBuffer .decrypt

theorem exec_eq_runCommand (i : Instr) (s : State) : exec i s = runCommand i (complete i) s := by
  cases i <;> rfl

/-- A command in progress is carried out. -/
theorem exec_of_inProgress {i : Instr} {s : State} (h : s.InProgress i) : exec i s = complete i s := by
  simp [exec_eq_runCommand, runCommand, h.1, h.2]

/-- A command on an idle engine is issued. -/
theorem exec_of_idle {i : Instr} {s : State} (h : s.busy = false) : exec i s = .next (issue i s) := by
  simp [exec_eq_runCommand, runCommand, h]

/-- A command on an engine busy with another is ignored. -/
theorem exec_of_other {i : Instr} {s : State} (h : s.busy = true) (ho : s.opc ≠ opcode i) :
    exec i s = .next s := by
  simp [exec_eq_runCommand, runCommand, h, ho]

/-- What the engine's turn is (R111): nothing when idle, else the command `OPC` names. -/
theorem engineTurn_of_idle {s : State} (h : s.busy = false) : engineTurn s = .next s := by
  simp [engineTurn, h]

theorem engineTurn_of_inProgress {i : Instr} {s : State} (h : s.InProgress i) :
    engineTurn s = complete i s := by
  simp [engineTurn, h.1, h.2, exec_of_inProgress h]

/-- Everything the engine's turn can do when it answers a next state. -/
theorem engineTurn_cases {s t : State} (h : engineTurn s = .next t) :
    (s.busy = false ∧ t = s) ∨ ∃ i, s.InProgress i ∧ complete i s = .next t := by
  unfold engineTurn at h
  split at h
  · next hb =>
    split at h
    · next i hi =>
      have hp : s.InProgress i := ⟨hb, opcode_of_decodeOp hi⟩
      exact .inr ⟨i, hp, by rwa [exec_of_inProgress hp] at h⟩
    · cases h
  · next hb => exact .inl ⟨by simpa using hb, by injection h with h; exact h.symm⟩

/-- Everything a command word can do: it is ignored, refused as illegal, or issued; it never fails to answer. -/
theorem issueWord_cases (c : Byte) (s : State) :
    ((s.busy = true ∨ s.err = true) ∧ issueWord c s = .next s) ∨
    (s.Ready ∧ (∃ e, decode c = .error e) ∧ issueWord c s = .next (raiseErr .illegalCommand s)) ∨
    (∃ i, s.Ready ∧ decode c = .ok i ∧ issueWord c s = .next (issue i s)) := by
  unfold issueWord
  cases hb : s.busy
  · cases he : s.err
    · cases hd : decode c with
      | error e => exact .inr (.inl ⟨⟨hb, he⟩, ⟨e, rfl⟩, by simp⟩)
      | ok i => exact .inr (.inr ⟨i, ⟨hb, he⟩, rfl, by simp [exec_of_idle hb]⟩)
    · simp
  · simp

/-- The forms a next state of a completion can have: the working registers and the draw count aside, the fields it
may change. -/
theorem complete_cases {i : Instr} {s t : State} (h : complete i s = .next t) :
    (i = .nop ∧ t = finish s) ∨
    (i = .kgen ∧ s.ksv = true ∧ t = finish s) ∨
    (i = .kgen ∧ s.ksv = false ∧ t = finish { s with ks := keyScheduleGen s.cfg.sbox, ksv := true }) ∨
    (i = .encb ∧ t = finish { s with dout := encryptBlock s.cfg.sbox s.ks s.din }) ∨
    (i = .decb ∧ t = finish { s with dout := decryptBlock s.cfg.sbox s.ks s.din }) ∨
    (∃ d, (i = .encbuf ∧ d = .encrypt ∨ i = .decbuf ∧ d = .decrypt) ∧ s.len.toNat ≤ s.cfg.bufBytes ∧
      t = finish { s with
        obuf := s.obuf.storeBytes 0 (transform s.cfg.sbox s.ks d (inputBytes s))
        draws := s.draws + s.len.toNat }) := by
  cases i with
  | nop => exact .inl ⟨rfl, by injection h with h; exact h.symm⟩
  | kgen =>
    simp only [complete, completeKgen, Host.Outcome.next.injEq] at h
    cases hv : s.ksv
    · exact .inr (.inr (.inl ⟨rfl, rfl, by simpa [hv] using h.symm⟩))
    · exact .inr (.inl ⟨rfl, rfl, by simpa [hv] using h.symm⟩)
  | encb => exact .inr (.inr (.inr (.inl ⟨rfl, by injection h with h; exact h.symm⟩)))
  | decb => exact .inr (.inr (.inr (.inr (.inl ⟨rfl, by injection h with h; exact h.symm⟩))))
  | encbuf =>
    simp only [complete, completeBuffer] at h
    split at h
    · next hl =>
      exact .inr (.inr (.inr (.inr (.inr ⟨.encrypt, .inl ⟨rfl, rfl⟩, hl, by injection h with h; exact h.symm⟩))))
    · cases h
  | decbuf =>
    simp only [complete, completeBuffer] at h
    split at h
    · next hl =>
      exact .inr (.inr (.inr (.inr (.inr ⟨.decrypt, .inr ⟨rfl, rfl⟩, hl, by injection h with h; exact h.symm⟩))))
    · cases h

/-- Everything one step can do when it answers a next state: the engine's turn, or one transaction of the host (a poll of `wait` is one). -/
theorem step_cases {s t : State} (h : step s = .next t) :
    (∃ rest, s.EngineTurn rest ∧ engineTurn (setScript rest s) = .next t) ∨
    (∃ rest, s.script = .reset :: rest ∧ t = resetEngine (setScript rest s)) ∨
    (∃ n rest, s.script = .regRead n :: rest ∧ t = regRead n (setScript rest s)) ∨
    (∃ n v rest, s.script = .regWrite n v :: rest ∧ hostReg n = .cmd ∧
      issueWord (commandWord v) (setScript rest s) = .next t) ∨
    (∃ n v rest, s.script = .regWrite n v :: rest ∧ hostReg n ≠ .cmd ∧ t = regWrite n v (setScript rest s)) ∨
    (∃ a b rest, s.script = .bufWrite a b :: rest ∧ t = bufWrite a b (setScript rest s)) ∨
    (∃ sp a rest, s.script = .bufRead sp a :: rest ∧ t = bufRead sp a (setScript rest s)) ∨
    (∃ early rest, s.script = .wait early :: rest ∧ t = pollStatus early (setScript rest s)) := by
  unfold step at h
  split at h
  · next hs => exact .inl ⟨[], .inr ⟨hs, rfl⟩, by rw [← h, ← hs]; rfl⟩
  · next x rest hs =>
    cases x with
    | reset => exact .inr (.inl ⟨rest, hs, by injection h with h; exact h.symm⟩)
    | regRead n => exact .inr (.inr (.inl ⟨n, rest, hs, by injection h with h; exact h.symm⟩))
    | regWrite n v =>
      simp only [hostTurn] at h
      split at h
      · next hn => exact .inr (.inr (.inr (.inl ⟨n, v, rest, hs, hn, h⟩)))
      · next hn =>
        exact .inr (.inr (.inr (.inr (.inl ⟨n, v, rest, hs, hn, by injection h with h; exact h.symm⟩))))
    | bufWrite a b =>
      exact .inr (.inr (.inr (.inr (.inr (.inl ⟨a, b, rest, hs, by injection h with h; exact h.symm⟩)))))
    | bufRead sp a =>
      exact .inr (.inr (.inr (.inr (.inr (.inr (.inl ⟨sp, a, rest, hs, by injection h with h; exact h.symm⟩))))))
    | wait early =>
      exact .inr (.inr (.inr (.inr (.inr (.inr (.inr ⟨early, rest, hs, by injection h with h; exact h.symm⟩))))))
    | idle => exact .inl ⟨rest, .inl hs, h⟩

/-- A step whose script has an entry is that entry's transaction. -/
theorem step_of_cons {s : State} {x : Txn} {rest : List Txn} (h : s.script = x :: rest) :
    step s = hostTurn x (setScript rest s) := by
  simp [step, h]

/-- A step on the engine's turn is the engine's turn. -/
theorem step_of_engineTurn {s : State} {rest : List Txn} (h : s.EngineTurn rest) :
    step s = engineTurn (setScript rest s) := by
  rcases h with h | ⟨h, rfl⟩
  · exact step_of_cons h
  · simp only [step, h]
    rw [← h]
    rfl

/-- A run goes on from the next state of its first step. -/
theorem run_succ_of_next (M : Host.Core) {s t : M.State} (h : M.step s = .next t) (k : Nat) :
    M.run (k + 1) s = M.run k t := by
  rw [Host.Core.run, h]

/-- The same of this machine. -/
theorem core_run_of_step {s t : State} (h : step s = .next t) (k : Nat) :
    Sys2Proof.core.run (k + 1) s = Sys2Proof.core.run k t :=
  run_succ_of_next Sys2Proof.core h k

/-- What the engine's turn leaves alone, whatever command it carries out: it raises no error, and writes neither the
host's registers and input buffer nor `OPC`; afterwards the engine is idle. -/
theorem engineTurn_frame {s t : State} (h : engineTurn s = .next t) :
    t.err = s.err ∧ t.errcode = s.errcode ∧ t.cfg = s.cfg ∧ t.din = s.din ∧ t.len = s.len ∧ t.ibuf = s.ibuf ∧
      t.opc = s.opc ∧ t.script = s.script ∧ t.replies = s.replies ∧ t.busy = false := by
  rcases engineTurn_cases h with ⟨hb, rfl⟩ | ⟨i, -, hc⟩
  · simp [hb]
  · rcases complete_cases hc with ⟨-, rfl⟩ | ⟨-, -, rfl⟩ | ⟨-, -, rfl⟩ | ⟨-, rfl⟩ | ⟨-, rfl⟩ | ⟨d, -, -, rfl⟩ <;> simp

/-- A read changes nothing but the replies and the count of free values drawn (R37). -/
theorem regRead_eq (n : BitVec 3) (s : State) :
    regRead n s = { s with replies := (regRead n s).replies, draws := (regRead n s).draws } := by
  unfold regRead
  split <;> try rfl
  split <;> rfl

theorem bufRead_eq (sp : Space) (a : Nat) (s : State) :
    bufRead sp a s = { s with replies := (bufRead sp a s).replies, draws := (bufRead sp a s).draws } := by
  unfold bufRead
  split <;> rfl

/-- Bit 0 of the status byte is `BUSY` (R14). -/
@[simp] theorem statusByte_busy (s : State) : (statusByte s).getLsbD 0 = s.busy := by
  unfold statusByte bit
  generalize s.errcode = c
  cases s.busy <;> cases s.err <;> cases s.ksv <;> revert c <;> decide

/-- Everything a poll of `wait` can do (R54): it reads `STATUS`, changes nothing of the engine, and ends the loop or
goes on with it. -/
theorem pollStatus_cases (early : Nat) (s : State) :
    (s.busy = false ∧
      pollStatus early s = { s with replies := s.replies ++ [.reg 1 ((statusByte s).setWidth 64)] }) ∨
    (s.busy = true ∧
      pollStatus early s = { s with
        script := waitAgain early s.script
        replies := s.replies ++ [.reg 1 ((statusByte s).setWidth 64)] }) := by
  unfold pollStatus
  rw [statusByte_busy]
  by_cases hb : s.busy = true
  · exact .inr ⟨hb, if_pos hb⟩
  · exact .inl ⟨by simpa using hb, if_neg hb⟩

/-- A poll of `wait` changes nothing but the script and the replies (R37, R54). -/
theorem pollStatus_eq (early : Nat) (s : State) :
    pollStatus early s =
      { s with script := (pollStatus early s).script, replies := (pollStatus early s).replies } := by
  unfold pollStatus
  split <;> rfl

/-- Everything a register write other than to `CMD` can do (R107, R114, R117). -/
theorem regWrite_cases (n : BitVec 3) (v : Word) (s : State) :
    regWrite n v s = s ∨
    (s.busy = false ∧ hostReg n = .status ∧ v.getLsbD 2 = true ∧ regWrite n v s = clearErr s) ∨
    (s.busy = false ∧ hostReg n = .din ∧ regWrite n v s = { s with din := v }) ∨
    (s.busy = false ∧ hostReg n = .len ∧ regWrite n v s = { s with len := v.extractLsb' 0 32 }) := by
  unfold regWrite
  cases hb : s.busy
  · cases hn : hostReg n <;> cases hv : v.getLsbD 2 <;> simp
  · simp

/-- Everything a buffer write can do (R115, R31, R117). -/
theorem bufWrite_cases (a : Nat) (b : Byte) (s : State) :
    bufWrite a b s = s ∨
    (s.busy = false ∧ a < s.cfg.bufBytes ∧ bufWrite a b s = { s with ibuf := s.ibuf.store a b }) := by
  unfold bufWrite
  cases hb : s.busy
  · by_cases ha : a < s.cfg.bufBytes <;> simp [ha]
  · simp

end Sys2Proof.Machine
end

