-- ==== Sys2Proof/Laws/PerInstr.lean ====
section
/-! SUPPORT. Statements about every command as syntax, one lemma for each constructor. -/

/-- R48: the encoded word has `RSV = 00000`, and the decoder reads the command back. -/
def Sys2Proof.Laws.Encoding.Statement (i : Sys2Proof.Instr) : Prop :=
  i.wellFormed = true ∧ Sys2Proof.commandWordWellFormed (Sys2Proof.encode i) = true ∧
    Sys2Proof.decode (Sys2Proof.encode i) = .ok i

theorem Sys2Proof.Laws.Encoding.nop : Sys2Proof.Laws.Encoding.Statement .nop := ⟨rfl, rfl, rfl⟩

theorem Sys2Proof.Laws.Encoding.kgen : Sys2Proof.Laws.Encoding.Statement .kgen := ⟨rfl, rfl, rfl⟩

theorem Sys2Proof.Laws.Encoding.encb : Sys2Proof.Laws.Encoding.Statement .encb := ⟨rfl, rfl, rfl⟩

theorem Sys2Proof.Laws.Encoding.decb : Sys2Proof.Laws.Encoding.Statement .decb := ⟨rfl, rfl, rfl⟩

theorem Sys2Proof.Laws.Encoding.encbuf : Sys2Proof.Laws.Encoding.Statement .encbuf := ⟨rfl, rfl, rfl⟩

theorem Sys2Proof.Laws.Encoding.decbuf : Sys2Proof.Laws.Encoding.Statement .decbuf := ⟨rfl, rfl, rfl⟩
end

