-- ==== Sys2Proof/Tests/Slice0.lean ====
section
/-! SUPPORT. The model's own tests. Expected results come from the spec: the encodings of 30_encoding.md R48, the worked
examples of the rules, the vectors of 95_test_vectors.md. After them, one witness for each obligation that has
hypotheses: states and operands that meet all of them, at the boundaries of its clauses. -/

open Sys2Proof Sys2Proof.Machine

namespace Sys2Proof.Tests

/-! A small state builder. -/

/-- The example table `T_EX` (R65) and `BUF_BYTES = 64`, as 95_test_vectors.md section 2.7 takes it. -/
def cfgEx : Config := ⟨tableEx, 64, by decide⟩

/-- An idle engine with no schedule, everything the spec leaves unspecified at zero. -/
def idle : State where
  cfg := cfgEx
  ks := Vector.replicate 25 seed
  busy := false
  ksv := false
  err := false
  errcode := 0
  din := 0
  dout := 0
  len := 0
  ibuf := []
  obuf := []
  opc := 0
  k0w := 0
  k1w := 0
  l := 0
  u := 0
  rnd := 0
  chk := 0
  script := []
  replies := []
  draws := 0

/-- An idle engine that holds the schedule. -/
def keyed : State := { idle with ks := keyScheduleGen tableEx, ksv := true }

/-- `s` with the command `i` in progress. -/
def running (i : Instr) (s : State) : State := { s with busy := true, opc := opcode i }

/-- `s` whose host does `x` next. -/
def doing (x : Txn) (s : State) : State := { s with script := [x] }

/-- `s` with a refusal of code `c` pending. -/
def refusedWith (c : BitVec 2) (s : State) : State := { s with err := true, errcode := c }

/-- One field, or another view, of the next state. -/
def after {α : Type} (r : Result) (f : State → α) : Option α :=
  match r with
  | .next t => some (f t)
  | .fault _ => none
  | .refused _ => none

/-- `STATUS` after the command word `c` is written. -/
def statusAfterWord (c : Word) (s : State) : Option Byte := after (step (doing (.regWrite 0 c) s)) statusByte

/-- The first `n` bytes of `OBUF`. -/
def outBytes (n : Nat) (s : State) : List (Option Byte) := (List.range n).map s.obuf.lookup

/-- The bytes of D00's 9-byte scenario (95_test_vectors.md S2), in a buffer. -/
def nineBytes : Memory :=
  [(0, 0x01), (1, 0x02), (2, 0x03), (3, 0x04), (4, 0x05), (5, 0x06), (6, 0x07), (7, 0x08), (8, 0xFF)]

/-- Their encryption with `T_EX` (95_test_vectors.md section 2.6). -/
def nineEncrypted : Memory :=
  [(0, 0x0E), (1, 0x2B), (2, 0xD3), (3, 0x5D), (4, 0x75), (5, 0x8B), (6, 0x74), (7, 0x0C), (8, 0xFF)]

/-! Ill-formed terms that the checks of WellFormed refuse. -/

theorem test_wf_word_reserved_bits : commandWordWellFormed 0b00001000 = false := by decide
theorem test_wf_word_reserved_op6 : commandWordWellFormed 0b00000110 = false := by decide
theorem test_wf_word_reserved_op7 : commandWordWellFormed 0b00000111 = false := by decide
theorem test_wf_word_good : commandWordWellFormed 0b00000101 = true := by decide
theorem test_wf_table_repeated :
    configWellFormed #v[0, 0, 2, 3, 4, 5, 6, 7, 8, 9, 10, 11, 12, 13, 14, 15] 64 = false := by decide
theorem test_wf_capacity_too_large : configWellFormed tableId.table 4294967296 = false := by decide
theorem test_wf_config_good : configWellFormed tableId.table 4294967295 = true := by decide
theorem test_wf_instr : (Instr.decbuf).wellFormed = true := by decide

/-! Words written out from the table of R48, `RSV` then `OP`; then R49. -/

theorem test_decode_nop : decode (0b00000#5 ++ 0b000#3) = .ok .nop := by decide
theorem test_decode_kgen : decode (0b00000#5 ++ 0b001#3) = .ok .kgen := by decide
theorem test_decode_encb : decode (0b00000#5 ++ 0b010#3) = .ok .encb := by decide
theorem test_decode_decb : decode (0b00000#5 ++ 0b011#3) = .ok .decb := by decide
theorem test_decode_encbuf : decode (0b00000#5 ++ 0b100#3) = .ok .encbuf := by decide
theorem test_decode_decbuf : decode (0b00000#5 ++ 0b101#3) = .ok .decbuf := by decide
theorem test_decode_rejects_by_name :
    decode 0x06 = .error .reservedOpcode ∧ decode 0x07 = .error .reservedOpcode ∧
    decode 0x0A = .error .reservedBits ∧ decode 0xFF = .error .reservedBits := by decide
theorem test_decode_table_word : decodeTableWord 8 4 = some .encbuf ∧ decodeTableWord 8 6 = none := by decide

/-! Functions of the datapath. -/

/-- 95_test_vectors.md section 2.1. -/
theorem test_sub32 :
    sub32 (sEnc tableEx) 0x00000000 = 0xCCCCCCCC ∧ sub32 (sEnc tableEx) 0xFFFFFFFF = 0x22222222 ∧
    sub32 (sDec tableEx) 0xC56B90AD = 0x01234567 ∧ sub32 (sDec tableEx) 0x3EF84712 = 0x89ABCDEF ∧
    sub32 (sDec tableEx) 0x00000000 = 0x55555555 ∧ sub32 (sEnc tableId) 0x89ABCDEF = 0x89ABCDEF := by decide +kernel

/-- 95_test_vectors.md section 2.1. -/
theorem test_sub8 : sub8 (sEnc tableEx) 0xF1 = 0x25 ∧ sub8 (sEnc tableEx) 0x31 = 0xB5 := by decide

/-- R65: the second row of `T_EX`. -/
theorem test_inverse_row :
    nibbles.map (sDec tableEx) = [0x5, 0xE, 0xF, 0x8, 0xC, 0x1, 0x2, 0xD, 0xB, 0x4, 0x6, 0x3, 0x0, 0x7, 0x9, 0xA] := by
  decide

/-- 95_test_vectors.md section 2.2. -/
theorem test_rotations :
    rol32 0x12345678 10 = 0xD159E048 ∧ ror32 0x12345678 3 = 0x02468ACF ∧
    rol32 0xCCCCCCCC 10 = 0x33333333 ∧ ror32 0x00000001 3 = 0x20000000 := by decide

/-- 95_test_vectors.md section 2.3: iteration 19 with `T_EX`, step by step. -/
theorem test_schedule_steps :
    substLowByte tableEx ⟨0x978E3C3DE14F3579, 0x1BCBDE76F1778131⟩ = ⟨0x978E3C3DE14F3579, 0x1BCBDE76F17781B5⟩ ∧
    injectConstant 19 ⟨0x978E3C3DE14F3579, 0x1BCBDE76F17781B5⟩ = ⟨0x978E3C3DE14F3579, 0x83CBDE76F17781B5⟩ := by
  decide

/-- 95_test_vectors.md section 2.3: the last keys of both schedules. -/
theorem test_last_round_keys :
    roundKey tableId 24 = ⟨0x701E00A400C01303, 0x001B004003406403⟩ ∧
    roundKey tableEx 24 = ⟨0x079DBCB9E02F146B, 0xE25C1678B2856A2B⟩ := by decide +kernel

/-- 95_test_vectors.md section 2.4: rows 2, 4 and 5, and the inverse of row 2. -/
theorem test_single_rounds :
    encRound tableId ⟨0, 0⟩ ⟨0x00000001, 0x00000000⟩ = ⟨0x20000000, 0x00000081⟩ ∧
    encRound tableId ⟨0, 0xFFFFFFFF00000000⟩ ⟨0, 0⟩ = ⟨0x00000000, 0xFFFFFFFF⟩ ∧
    encRound tableId ⟨0, 0x00000000FFFFFFFF⟩ ⟨0, 0⟩ = ⟨0xFFFFFFFF, 0xFFFFFFFF⟩ ∧
    decRound tableId ⟨0, 0⟩ ⟨0x20000000, 0x00000081⟩ = ⟨0x00000001, 0x00000000⟩ := by decide +kernel

/-- 95_test_vectors.md section 2.6, the `LEN = 19` row: two chunks and a tail. -/
theorem test_transform :
    transform tableEx (keyScheduleGen tableEx) .encrypt
      [0xAA, 0xAA, 0xAA, 0xAA, 0xAA, 0xAA, 0xAA, 0xAA, 0x11, 0x22, 0x33, 0x44, 0x55, 0x66, 0x77, 0x88, 0xDE, 0xAD, 0xBE] =
      [0x0F, 0x31, 0x82, 0x5D, 0xAA, 0x03, 0xDF, 0xDA, 0x84, 0xC3, 0x3F, 0x77, 0x13, 0x04, 0xCD, 0x9F, 0xDE, 0xAD, 0xBE] := by
  decide +kernel

/-! The commands, each in one step. -/

/-- R110: after reset `NOP` completes with `STATUS` `0x00`. -/
theorem test_nop : after (exec .nop (running .nop idle)) statusByte = some 0x00 := by decide

/-- R75: `KGEN` leaves `STATUS` `0x02` and, with `T_EX`, `KS[0] = (0, 0xCC)`. -/
theorem test_kgen : after (exec .kgen (running .kgen idle)) (fun t => (statusByte t, t.ks[0])) = some (0x02, ⟨0, 0xCC⟩) := by
  decide +kernel

/-- 95_test_vectors.md section 2.5. -/
theorem test_encb :
    after (exec .encb (running .encb { keyed with din := 0x0123456789ABCDEF })) (·.dout) = some 0x0A3E11094B3AA0C5 := by
  decide +kernel

/-- 95_test_vectors.md section 2.5. -/
theorem test_decb :
    after (exec .decb (running .decb { keyed with din := 0x0123456789ABCDEF })) (·.dout) = some 0x0373F8D243ED0225 := by
  decide +kernel

/-- 95_test_vectors.md S2. -/
theorem test_encbuf :
    after (exec .encbuf (running .encbuf { keyed with len := 9, ibuf := nineBytes })) (·.obuf) = some nineEncrypted := by
  decide +kernel

/-- 95_test_vectors.md S2, the other way; `OBUF[9]` keeps its byte (R101). -/
theorem test_decbuf :
    after (exec .decbuf (running .decbuf { keyed with len := 9, ibuf := nineEncrypted, obuf := [(9, 0x77)] })) (·.obuf) =
      some (nineBytes ++ [(9, 0x77)]) := by
  decide +kernel

/-- 95_test_vectors.md section 2.7: the rows refused or ignored. -/
theorem test_dispatch_refusals :
    statusAfterWord 0x02 idle = some 0x14 ∧ statusAfterWord 0x04 idle = some 0x14 ∧
    statusAfterWord 0x05 { idle with len := 65 } = some 0x14 ∧ statusAfterWord 0x06 idle = some 0x0C ∧
    statusAfterWord 0x0A idle = some 0x0C ∧ statusAfterWord 0xFF keyed = some 0x0E ∧
    statusAfterWord 0x04 { keyed with len := 65 } = some 0x1E ∧
    statusAfterWord 0x02 (refusedWith 3 { keyed with len := 65 }) = some 0x1E := by decide +kernel

/-- 95_test_vectors.md section 2.7: the rows accepted (`BUSY` still 1). -/
theorem test_dispatch_accepted :
    statusAfterWord 0x00 idle = some 0x01 ∧ statusAfterWord 0x01 idle = some 0x01 ∧
    statusAfterWord 0x04 { keyed with len := 64 } = some 0x03 ∧
    statusAfterWord 0x02 { keyed with len := 65 } = some 0x03 ∧ statusAfterWord 0x01 keyed = some 0x03 := by
  decide +kernel

/-- 95_test_vectors.md section 2.7: `wr STATUS, 0x04` and `wr STATUS, 0xFB`. -/
theorem test_clrerr :
    after (step (doing (.regWrite 1 0x04) (refusedWith 3 keyed))) statusByte = some 0x02 ∧
    after (step (doing (.regWrite 1 0xFB) (refusedWith 3 keyed))) statusByte = some 0x1E := by decide +kernel

/-- 95_test_vectors.md, program 3, lines 3 and 4: what the host reads after a refusal. -/
theorem test_reads :
    after (step (doing (.regRead 1) (refusedWith 2 idle))) (·.replies) = some [.reg 1 0x14] ∧
    after (step (doing (.regRead 3) (refusedWith 2 idle))) (·.replies) = some [.reg 3 0] := by decide

/-- R54: the pseudo-instructions; `wait` on an idle engine is one poll. -/
theorem test_script :
    scriptCmd .encb = [.regWrite 0 0x02] ∧ scriptClrerr = [.regWrite 1 0x04] ∧
    scriptFill 3 [0x10, 0x11] = [.bufWrite 3 0x10, .bufWrite 4 0x11] ∧
    scriptDump .obuf 2 2 = [.bufRead .obuf 2, .bufRead .obuf 3] ∧
    (Sys2Proof.core.run 1 { idle with script := scriptWait 5 }) = .next { idle with replies := [.reg 1 0x00] } :=
  ⟨by decide, by decide, by decide, by decide, rfl⟩

/-- R91 with the vector of R89: 25 micro-steps. -/
theorem test_micro_encb :
    (microRun 25 (microStart (running .encb keyed))).dout = 0x50EA48E97BD64F10 ∧
    (microRun 24 (microStart (running .encb keyed))).busy = true := by decide +kernel

/-- R112 with S2: two chunks, and the schedule in 25 iterations. -/
theorem test_micro_encbuf :
    (microRun 2 (microStart (running .encbuf { keyed with len := 9, ibuf := nineBytes }))).obuf = nineEncrypted := by
  decide +kernel

theorem test_micro_kgen :
    (microRun 25 (microStart (running .kgen idle))).ks = keyScheduleGen tableEx ∧
    (microRun 24 (microStart (running .kgen idle))).ksv = false := by decide +kernel


/-! Witnesses. `test_witness_X` shows, for each clause of `Obligations.X`, a state and operands that meet its
hypotheses together. -/

theorem test_idle_inv : idle.Inv where
  ibufWf := List.Pairwise.nil
  obufWf := List.Pairwise.nil
  ibufWithin := fun _ h => nomatch h
  obufWithin := fun _ h => nomatch h
  errcodeZero := ⟨fun _ => rfl, fun _ => rfl⟩
  busyNoErr := fun _ => rfl
  schedule := fun h => Bool.noConfusion h
  opcAccepted := fun h => Bool.noConfusion h

theorem test_keyed_inv : keyed.Inv where
  ibufWf := List.Pairwise.nil
  obufWf := List.Pairwise.nil
  ibufWithin := fun _ h => nomatch h
  obufWithin := fun _ h => nomatch h
  errcodeZero := ⟨fun _ => rfl, fun _ => rfl⟩
  busyNoErr := fun _ => rfl
  schedule := fun _ => rfl
  opcAccepted := fun h => Bool.noConfusion h

/-- Any command can be in progress: a schedule, and `LEN` at the capacity. -/
theorem test_running_inv (i : Instr) : (running i { keyed with len := 64 }).Inv where
  ibufWf := List.Pairwise.nil
  obufWf := List.Pairwise.nil
  ibufWithin := fun _ h => nomatch h
  obufWithin := fun _ h => nomatch h
  errcodeZero := ⟨fun _ => rfl, fun _ => rfl⟩
  busyNoErr := fun _ => rfl
  schedule := fun _ => rfl
  opcAccepted := fun _ => ⟨i, rfl, fun _ => rfl, fun _ => Nat.le_refl 64⟩

/-- `KGEN` can be in progress without a schedule. -/
theorem test_running_kgen_inv : (running .kgen idle).Inv where
  ibufWf := List.Pairwise.nil
  obufWf := List.Pairwise.nil
  ibufWithin := fun _ h => nomatch h
  obufWithin := fun _ h => nomatch h
  errcodeZero := ⟨fun _ => rfl, fun _ => rfl⟩
  busyNoErr := fun _ => rfl
  schedule := fun h => Bool.noConfusion h
  opcAccepted := fun _ => ⟨.kgen, rfl, fun h => Bool.noConfusion h, fun h => Bool.noConfusion h⟩

theorem test_witness_IllegalWordsRefusedWithCodeOne :
    (doing (.regWrite 0 0x06) idle).Ready ∧ (doing (.regWrite 0 0x06) idle).script = .regWrite 0 0x06 :: [] ∧
    (0x06 : Word).extractLsb' 0 3 = 6 ∧ (0xFFFF07 : Word).extractLsb' 0 3 = 7 ∧ (0x08 : Word).extractLsb' 3 5 ≠ 0 := by
  decide

theorem test_witness_ExaminedWordStepRunsItsCommand :
    (doing (.regWrite 0 0x105) keyed).Ready ∧ (doing (.regWrite 0 0x105) keyed).script = .regWrite 0 0x105 :: [] ∧
    decode ((0x105 : Word).extractLsb' 0 8) = .ok .decbuf := by decide

theorem test_witness_EngineTurnRunsLatchedCommand :
    (running .encb keyed).EngineTurn [] ∧ (doing .idle (running .encb keyed)).EngineTurn [] ∧
    (running .encb keyed).InProgress .encb ∧ keyed.EngineTurn [] ∧ keyed.busy = false := by decide

theorem test_witness_PlacedWordRunsNext : decodeTableWord 8 0 = some .nop ∧ decodeTableWord 8 5 = some .decbuf := by decide

/-- Lines 1 to 4 in turn: `0x0A`, `0x02` with no schedule, `LEN = 65` and `LEN = 64` with one. -/
theorem test_witness_CommandWordsExaminedInOrder :
    (doing (.regWrite 0 0x0A) idle).Ready ∧ (0x0A : Word).extractLsb' 3 5 ≠ 0 ∧
    (doing (.regWrite 0 0x02) idle).Ready ∧ (0x02 : Word).extractLsb' 3 5 = 0 ∧ (0x02 : Word).extractLsb' 0 3 = 2 ∧
      idle.ksv = false ∧
    (doing (.regWrite 0 0x04) { keyed with len := 65 }).Ready ∧ (0x04 : Word).extractLsb' 0 3 = 4 ∧ keyed.ksv = true ∧
      keyed.cfg.bufBytes < (65 : BitVec 32).toNat ∧
    (doing (.regWrite 0 0x04) { keyed with len := 64 }).Ready ∧ ¬keyed.cfg.bufBytes < (64 : BitVec 32).toNat := by
  decide

theorem test_witness_CommandWritesIgnoredWhileBusyOrError :
    (doing (.regWrite 0 0x01) (running .encb keyed)).busy = true ∧
    (doing (.regWrite 0 0x01) (refusedWith 2 idle)).busy = false ∧
    (doing (.regWrite 0 0x01) (refusedWith 2 idle)).err = true ∧
    (doing (.regWrite 0 0x01) (refusedWith 2 idle)).script = .regWrite 0 0x01 :: [] := by decide

theorem test_witness_KeyAndLengthRefusals :
    idle.Ready ∧ idle.ksv = false ∧ ({ keyed with len := 65 } : State).Ready ∧ keyed.ksv = true ∧
    keyed.cfg.bufBytes < ({ keyed with len := 65 } : State).len.toNat ∧
    ({ keyed with len := 64 } : State).len.toNat = keyed.cfg.bufBytes := by decide

theorem test_witness_ErrorsDoNotNest :
    (∃ t, step (doing (.regWrite 1 0xFB) (refusedWith 3 keyed)) = .next t) ∧
    ¬(doing (.regWrite 1 0xFB) (refusedWith 3 keyed)).ResetNext ∧ (refusedWith 3 keyed).err = true ∧
    (0xFB : Word).getLsbD 2 = false ∧
    (∃ t, step (running .encb keyed) = .next t) ∧ ¬(running .encb keyed).ResetNext ∧
    (running .encb keyed).busy = true :=
  ⟨⟨_, rfl⟩, by decide, rfl, by decide, ⟨_, rfl⟩, by decide, rfl⟩

/-- The three codes, one after the other. -/
theorem test_witness_ErrorsComeOnlyFromCommandWrites :
    (∃ t, step (doing (.regWrite 0 0x06) idle) = .next t ∧ t.err = true) ∧
    (∃ t, step (doing (.regWrite 0 0x02) idle) = .next t ∧ t.err = true) ∧
    (∃ t, step (doing (.regWrite 0 0x05) { keyed with len := 65 }) = .next t ∧ t.err = true) ∧
    idle.err = false ∧ keyed.err = false :=
  ⟨⟨_, rfl, rfl⟩, ⟨_, rfl, rfl⟩, ⟨_, rfl, rfl⟩, rfl, rfl⟩

theorem test_witness_StatusWriteClearsTheErrorOnly :
    (doing (.regWrite 1 0x04) (refusedWith 3 keyed)).script = .regWrite 1 0x04 :: [] ∧ keyed.busy = false ∧
    (0x04 : Word).getLsbD 2 = true ∧ (0xFB : Word).getLsbD 2 = false ∧ keyed.Inv ∧ keyed.err = false ∧
    (running .encb keyed).busy = true :=
  ⟨rfl, rfl, by decide, by decide, test_keyed_inv, rfl, rfl⟩

/-- Every register number, reads and writes, on an idle engine. -/
theorem test_witness_RegisterTransactionsWhenIdle :
    keyed.busy = false ∧ ∀ n ∈ [(0 : BitVec 3), 1, 2, 3, 4, 5, 6, 7],
      (doing (.regRead n) keyed).script = .regRead n :: [] ∧
      (doing (.regWrite n 0x04) keyed).script = .regWrite n 0x04 :: [] ∧ (n < 5 ∨ 5 ≤ n) := by decide

theorem test_witness_WritesIgnoredWhileBusy :
    (running .encb keyed).busy = true ∧
    (doing (.regWrite 2 0x01) (running .encb keyed)).script = .regWrite 2 0x01 :: [] ∧
    (doing (.bufWrite 63 0x01) (running .encb keyed)).script = .bufWrite 63 0x01 :: [] ∧
    (∃ t, step (doing (.regRead 1) (running .encb keyed)) = .next t) ∧
    ¬(doing (.regRead 1) (running .encb keyed)).ResetNext ∧
    ∀ r, ¬(doing (.regRead 1) (running .encb keyed)).EngineTurn r :=
  ⟨rfl, rfl, rfl, ⟨_, rfl⟩, by decide, fun r h => by simp [State.EngineTurn, doing] at h⟩

theorem test_witness_ReadsWhileBusy :
    (running .encbuf keyed).busy = true ∧
    (doing (.regRead 1) (running .encbuf keyed)).script = .regRead 1 :: [] ∧ (1 : BitVec 3) ≠ 3 ∧
    (doing (.regRead 3) (running .encbuf keyed)).script = .regRead 3 :: [] ∧
    (doing (.bufRead .obuf 0) (running .encbuf keyed)).script = .bufRead .obuf 0 :: [] ∧
    (doing (.bufRead .ibuf 8) (running .encbuf keyed)).script = .bufRead .ibuf 8 :: [] ∧
    8 < keyed.cfg.bufBytes ∧ nineBytes.lookup 8 = some 0xFF := by decide

/-- The last address, and the first beyond. -/
theorem test_witness_BufferTransactionsWhenIdle :
    keyed.busy = false ∧ 63 < keyed.cfg.bufBytes ∧ keyed.cfg.bufBytes ≤ 64 ∧
    (doing (.bufWrite 63 0x01) keyed).script = .bufWrite 63 0x01 :: [] ∧
    (doing (.bufWrite 64 0x01) keyed).script = .bufWrite 64 0x01 :: [] ∧
    (doing (.bufRead .ibuf 8) { keyed with ibuf := nineBytes }).script = .bufRead .ibuf 8 :: [] ∧
    nineBytes.lookup 8 = some 0xFF := by decide

theorem test_witness_ReadsHaveNoSideEffect :
    (∃ n, (doing (.regRead 3) keyed).script = .regRead n :: []) ∧
    ∃ sp a, (doing (.bufRead .obuf 64) keyed).script = .bufRead sp a :: [] :=
  ⟨⟨3, rfl⟩, ⟨.obuf, 64, rfl⟩⟩

theorem test_witness_ResetGivesTheResetValues :
    (doing .reset (running .kgen idle)).script = .reset :: [] ∧ (doing .reset (refusedWith 3 keyed)).script = .reset :: [] := by
  decide

theorem test_witness_ConfigurationNeverChanges :
    (∃ t, step (doing .reset keyed) = .next t) ∧ ∃ t, step (running .kgen idle) = .next t :=
  ⟨⟨_, rfl⟩, ⟨_, rfl⟩⟩

theorem test_witness_NopOnlyClearsBusy : idle.Ready ∧ (running .nop idle).InProgress .nop := by decide

theorem test_witness_KgenFillsTheScheduleOnce :
    idle.Ready ∧ (running .kgen idle).InProgress .kgen ∧ (running .kgen idle).ksv = false ∧
    (running .kgen keyed).InProgress .kgen ∧ (running .kgen keyed).ksv = true ∧
    (∃ t, step (running .kgen keyed) = .next t) ∧ ¬(running .kgen keyed).ResetNext :=
  ⟨by decide, by decide, rfl, by decide, rfl, ⟨_, rfl⟩, by decide⟩

theorem test_witness_ScheduleStepsOneToThree :
    (24 : Nat) ≤ 24 ∧ (0x2002001801000A00 : Word).extractLsb' 0 8 = 0 := by decide

theorem test_witness_ScheduleRotatesAndXors : (24 : Nat) ≤ 24 ∧ (0 : Nat) ≤ 24 := by decide

theorem test_witness_RotationsMoveEachBit : (1 : Nat) ≤ 1 ∧ 1 ≤ 31 ∧ 31 ≤ 31 ∧ 31 < 32 := by decide

theorem test_witness_RotationsAreLinearBijections : (1 : Nat) ≤ 10 ∧ 10 ≤ 31 := by decide

/-- Two schedules that differ in a `k0` only. -/
theorem test_witness_OnlyTheUpperKeyIsRead :
    (∀ r : Fin 25, (Vector.replicate 25 (⟨0, 5⟩ : RoundKey))[r].k1 = (Vector.replicate 25 (⟨1, 5⟩ : RoundKey))[r].k1) ∧
    Vector.replicate 25 (⟨0, 5⟩ : RoundKey) ≠ Vector.replicate 25 ⟨1, 5⟩ := by decide

theorem test_witness_EncbEncryptsDin :
    keyed.Ready ∧ keyed.ksv = true ∧ idle.Ready ∧ idle.ksv = false ∧ (running .encb keyed).InProgress .encb := by decide

theorem test_witness_DecbDecryptsDin :
    keyed.Ready ∧ keyed.ksv = true ∧ idle.Ready ∧ idle.ksv = false ∧ (running .decb keyed).InProgress .decb := by decide

theorem test_witness_DecbUndoesEncb :
    ∃ t, (running .encb keyed).InProgress .encb ∧ exec .encb (running .encb keyed) = .next t ∧
      (running .decb { keyed with din := t.dout }).InProgress .decb ∧
      (running .decb { keyed with din := t.dout }).cfg = keyed.cfg ∧
      (running .decb { keyed with din := t.dout }).ks = keyed.ks ∧
      (running .decb { keyed with din := t.dout }).din = t.dout :=
  ⟨_, ⟨rfl, rfl⟩, rfl, ⟨rfl, rfl⟩, rfl, rfl, rfl⟩

theorem test_witness_TransformWorksChunkByChunk :
    8 * 1 + 8 ≤ (List.replicate 16 (0x11 : Byte)).length ∧
    ((List.replicate 16 (0x11 : Byte)).drop (8 * 1)).take 8 = (Vector.replicate 8 (0x11 : Byte)).toList ∧
    8 * ((List.replicate 19 (0x11 : Byte)).length / 8) ≤ 18 := by decide

theorem test_witness_BlockAndBufferCommandsAgree :
    let s := running .encb { keyed with din := 0x0807060504030201 }
    let s' := running .encbuf { keyed with len := 8, ibuf := nineBytes }
    s.InProgress .encb ∧ s'.InProgress .encbuf ∧ s'.cfg = s.cfg ∧ s'.ks = s.ks ∧ s'.len = 8 ∧ 8 ≤ s'.cfg.bufBytes ∧
      ∀ a : Fin 8, s'.ibuf.lookup a = some (le64enc s.din)[a] :=
  ⟨⟨rfl, rfl⟩, ⟨rfl, rfl⟩, rfl, rfl, rfl, by decide, by decide⟩

/-- The two equal chunks of 95_test_vectors.md, program 4, in shape: chunks 0 and 2 of 27 bytes. -/
theorem test_witness_ChunksAreIndependent :
    8 * 0 + 8 ≤ (List.replicate 27 (0xAA : Byte)).length ∧ 8 * 2 + 8 ≤ (List.replicate 27 (0xAA : Byte)).length ∧
    ((List.replicate 27 (0xAA : Byte)).drop (8 * 0)).take 8 = ((List.replicate 27 (0xAA : Byte)).drop (8 * 2)).take 8 := by
  decide

theorem test_witness_EncbufEncryptsTheBuffer :
    ({ keyed with len := 64 } : State).Ready ∧ keyed.ksv = true ∧ idle.Ready ∧ idle.ksv = false ∧
    ({ keyed with len := 65 } : State).Ready ∧ keyed.cfg.bufBytes < (65 : BitVec 32).toNat ∧
    (running .encbuf { keyed with len := 64 }).InProgress .encbuf ∧ (64 : BitVec 32).toNat ≤ keyed.cfg.bufBytes := by
  decide

theorem test_witness_DecbufDecryptsTheBuffer :
    ({ keyed with len := 64 } : State).Ready ∧ keyed.ksv = true ∧ idle.Ready ∧ idle.ksv = false ∧
    ({ keyed with len := 65 } : State).Ready ∧ keyed.cfg.bufBytes < (65 : BitVec 32).toNat ∧
    (running .decbuf { keyed with len := 64 }).InProgress .decbuf ∧ (64 : BitVec 32).toNat ≤ keyed.cfg.bufBytes := by
  decide

/-- `LEN` 0, 7 and 8. -/
theorem test_witness_ShortBuffersAreCopied :
    idle.Ready ∧ idle.ksv = false ∧ (running .encbuf { keyed with len := 0 }).InProgress .encbuf ∧
    (running .decbuf { keyed with len := 7 }).InProgress .decbuf ∧ (7 : BitVec 32).toNat < 8 ∧ 6 < (7 : BitVec 32).toNat ∧
    nineBytes.lookup 6 = some 0x07 ∧ (running .encbuf { keyed with len := 8 }).InProgress .encbuf ∧
    (8 : BitVec 32).toNat ≤ keyed.cfg.bufBytes := by decide

theorem test_witness_DecbufUndoesEncbuf :
    ∃ t, (running .encbuf { keyed with len := 9, ibuf := nineBytes }).InProgress .encbuf ∧
      exec .encbuf (running .encbuf { keyed with len := 9, ibuf := nineBytes }) = .next t ∧
      (running .decbuf { keyed with len := 9, ibuf := t.obuf }).InProgress .decbuf ∧
      (running .decbuf { keyed with len := 9, ibuf := t.obuf }).cfg = keyed.cfg ∧
      (running .decbuf { keyed with len := 9, ibuf := t.obuf }).ks = keyed.ks ∧
      (∀ a, a < 9 → (running .decbuf { keyed with len := 9, ibuf := t.obuf }).ibuf.lookup a = t.obuf.lookup a) ∧
      8 < 9 ∧ nineBytes.lookup 8 = some 0xFF :=
  ⟨_, ⟨rfl, rfl⟩, rfl, ⟨rfl, rfl⟩, rfl, rfl, fun _ _ => rfl, by decide, by decide⟩

/-- Three chunks (the last of one byte), in the order 2, 0, 1. -/
theorem test_witness_ChunkOrderIsNotObservable :
    nineBytes.wf ∧ [2, 0, 1].Perm (List.range (((List.replicate 17 (0x11 : Byte)).length + 7) / 8)) := by decide

/-- One step that changes each element. -/
theorem test_witness_EachElementHasItsWriters :
    after (step (doing (.regWrite 2 7) keyed)) (·.din) = some 7 ∧ keyed.din ≠ 7 ∧
    after (step (doing (.regWrite 4 7) keyed)) (·.len) = some 7 ∧
    after (step (doing (.bufWrite 63 7) keyed)) (·.ibuf) = some [(63, 7)] ∧
    after (step (running .encb keyed)) (·.dout) = some 0x50EA48E97BD64F10 ∧
    after (step (running .encbuf { keyed with len := 9, ibuf := nineBytes })) (·.obuf) = some nineEncrypted ∧
    after (step (running .kgen idle)) (·.ksv) = some true ∧
    after (step (doing (.regWrite 0 6) keyed)) (·.err) = some true ∧
    after (step (doing (.regWrite 0 5) keyed)) (fun t => (t.busy, t.opc)) = some (true, 5) ∧
    after (step (running .encb keyed)) (·.busy) = some false := by decide +kernel

theorem test_witness_HiddenStateIsHidden :
    (doing (.regRead 1) keyed).SameToHost (doing (.regRead 1) { keyed with opc := 5, ks := Vector.replicate 25 seed }) ∧
    ∀ rest, ¬(doing (.regRead 1) keyed).EngineTurn rest :=
  ⟨rfl, fun r h => by simp [State.EngineTurn, doing] at h⟩

theorem test_witness_StepKeepsTheInvariant :
    idle.Inv ∧ (∃ t, step idle = .next t) ∧ (running .kgen idle).Inv ∧ ∃ t, step (running .kgen idle) = .next t :=
  ⟨test_idle_inv, ⟨_, rfl⟩, test_running_kgen_inv, ⟨_, rfl⟩⟩

/-- The last two clauses speak of states outside the invariant. -/
theorem test_witness_NothingFailsUnderTheInvariant :
    keyed.Inv ∧ (running .encb keyed).EngineTurn [] ∧ (∃ t, step (running .encb keyed) = .next t) ∧
    (running .encbuf { keyed with len := 65 }).InProgress .encbuf ∧ keyed.cfg.bufBytes < (65 : BitVec 32).toNat ∧
    ({ keyed with busy := true, opc := 6 } : State).EngineTurn [] ∧ ({ keyed with busy := true, opc := 7 } : State).opc = 7 :=
  ⟨test_keyed_inv, .inr ⟨rfl, rfl⟩, ⟨_, rfl⟩, ⟨rfl, rfl⟩, by decide, .inr ⟨rfl, rfl⟩, rfl⟩

theorem test_witness_AcceptedCommandsComplete :
    (running .decbuf { keyed with len := 64 }).Inv ∧ (running .decbuf { keyed with len := 64 }).busy = true ∧
    (running .decbuf { keyed with len := 64 }).EngineTurn [] ∧
    (running .kgen (doing (.regRead 1) idle)).busy = true ∧ ¬(running .kgen (doing (.regRead 1) idle)).ResetNext ∧
    ∀ rest, ¬(running .kgen (doing (.regRead 1) idle)).EngineTurn rest :=
  ⟨test_running_inv .decbuf, rfl, .inr ⟨rfl, rfl⟩, rfl, by decide, fun r h => by simp [State.EngineTurn, running, doing] at h⟩

/-- Busy and idle. -/
theorem test_witness_PseudoInstructionsExpand :
    (running .encb { keyed with len := 64, script := scriptWait 2 ++ [.regRead 3] }).script = scriptWait 2 ++ [.regRead 3] ∧
    (running .encb { keyed with len := 64 }).Inv ∧ keyed.Inv ∧ keyed.busy = false :=
  ⟨rfl, test_running_inv .encb, test_keyed_inv, rfl⟩

theorem test_witness_WaitPollsOnePollAStep :
    (doing (.wait 0) (running .encb keyed)).script = .wait 0 :: [] ∧ (statusByte (running .encb keyed)).getLsbD 0 = true ∧
    (doing (.wait 3) keyed).script = .wait 3 :: [] ∧ (statusByte keyed).getLsbD 0 = false := by decide

theorem test_witness_TwentyFiveMicroRoundsMakeABlock :
    (running .encb keyed).InProgress .encb ∧ (running .decb keyed).InProgress .decb := by decide

theorem test_witness_MicroStepsRefineTheCompletion :
    ∀ i, (running i { keyed with len := 64 }).Inv ∧ (running i { keyed with len := 64 }).InProgress i :=
  fun i => ⟨test_running_inv i, rfl, rfl⟩

end Sys2Proof.Tests
end

section
/-! PROOFS. The configuration is constant (R24): one lemma for each operation a step is made of, then O19. -/

namespace Sys2Proof.Machine

@[simp] theorem regRead_cfg (n : BitVec 3) (s : State) : (regRead n s).cfg = s.cfg := by
  rw [regRead_eq]

@[simp] theorem bufRead_cfg (sp : Space) (a : Nat) (s : State) : (bufRead sp a s).cfg = s.cfg := by
  rw [bufRead_eq]

@[simp] theorem pollStatus_cfg (early : Nat) (s : State) : (pollStatus early s).cfg = s.cfg := by
  rw [pollStatus_eq]

@[simp] theorem regWrite_cfg (n : BitVec 3) (v : Word) (s : State) : (regWrite n v s).cfg = s.cfg := by
  obtain h | ⟨-, -, -, h⟩ | ⟨-, -, h⟩ | ⟨-, -, h⟩ := regWrite_cases n v s <;> simp [h]

@[simp] theorem bufWrite_cfg (a : Nat) (b : Byte) (s : State) : (bufWrite a b s).cfg = s.cfg := by
  obtain h | ⟨-, -, h⟩ := bufWrite_cases a b s <;> simp [h]

@[simp] theorem issue_cfg (i : Instr) (s : State) : (issue i s).cfg = s.cfg := by
  obtain ⟨-, h⟩ | ⟨-, -, -, h⟩ | ⟨-, -, -, -, h⟩ | ⟨-, -, -, h⟩ := issue_cases i s <;> simp [h]

theorem cfg_of_issueWord {c : Byte} {s t : State} (h : issueWord c s = .next t) : t.cfg = s.cfg := by
  obtain ⟨-, hw⟩ | ⟨-, -, hw⟩ | ⟨i, -, -, hw⟩ := issueWord_cases c s <;>
    · cases hw.symm.trans h
      simp

theorem cfg_of_engineTurn {s t : State} (h : engineTurn s = .next t) : t.cfg = s.cfg := by
  obtain ⟨-, -, hcfg, -⟩ := engineTurn_frame h
  exact hcfg

/-- Settles O19: the engine's turn and every transaction of the host keep the configuration (R24). -/
theorem configurationNeverChanges : Obligations.ConfigurationNeverChanges := by
  intro s t h
  obtain ⟨rest, -, he⟩ | ⟨rest, -, rfl⟩ | ⟨n, rest, -, rfl⟩ | ⟨n, v, rest, -, -, hw⟩ | ⟨n, v, rest, -, -, rfl⟩ |
    ⟨a, b, rest, -, rfl⟩ | ⟨sp, a, rest, -, rfl⟩ | ⟨early, rest, -, rfl⟩ := step_cases h
  · simpa using cfg_of_engineTurn he
  · rw [resetEngine_cfg, setScript_cfg]
  · rw [regRead_cfg, setScript_cfg]
  · simpa using cfg_of_issueWord hw
  · rw [regWrite_cfg, setScript_cfg]
  · rw [bufWrite_cfg, setScript_cfg]
  · rw [bufRead_cfg, setScript_cfg]
  · rw [pollStatus_cfg, setScript_cfg]

end Sys2Proof.Machine
end

section
/-! PROOFS. The little-endian codec (R33): the bytes of a decoded word and of an encoded one, from which the inverse laws
follow byte by byte, and the decoded word in base 256; then O40. -/

namespace Sys2Proof.Machine

theorem extractLsb'_le64dec (b : Vector Byte 8) (j : Fin 8) : (le64dec b).extractLsb' (8 * j) 8 = b[j] := by
  refine BitVec.eq_of_getLsbD_eq fun i hi => ?_
  simp only [BitVec.getLsbD_extractLsb', le64dec, BitVec.getLsbD_append]
  fin_cases j <;> simp +arith [hi]

theorem getElem_le64enc (w : Word) (j : Fin 8) : (le64enc w)[j] = w.extractLsb' (8 * j) 8 := by
  fin_cases j <;> rfl

@[simp] theorem le64dec_le64enc (w : Word) : le64dec (le64enc w) = w :=
  word_eq_of_bytes fun j => by rw [extractLsb'_le64dec, getElem_le64enc]

@[simp] theorem le64enc_le64dec (b : Vector Byte 8) : le64enc (le64dec b) = b :=
  Vector.ext fun j hj => (getElem_le64enc (le64dec b) ⟨j, hj⟩).trans (extractLsb'_le64dec b ⟨j, hj⟩)

/-- The library states the value of a concatenation with a shift and an or; here it is the sum, as R33 has it. -/
theorem toNat_append_eq_add {m n : Nat} (x : BitVec m) (y : BitVec n) :
    (x ++ y).toNat = x.toNat * 2 ^ n + y.toNat := by
  rw [BitVec.toNat_append, ← Nat.shiftLeft_add_eq_or_of_lt y.isLt, Nat.shiftLeft_eq]

theorem toNat_le64dec (b : Vector Byte 8) :
    (le64dec b).toNat = b[0].toNat + b[1].toNat * 2 ^ 8 + b[2].toNat * 2 ^ 16 + b[3].toNat * 2 ^ 24 +
      b[4].toNat * 2 ^ 32 + b[5].toNat * 2 ^ 40 + b[6].toNat * 2 ^ 48 + b[7].toNat * 2 ^ 56 := by
  simp only [le64dec, toNat_append_eq_add]
  ring

/-- Settles O40: the inverse laws, the byte positions, the sum in base 256 and the worked example of R33. -/
theorem codecIsLittleEndian : Obligations.CodecIsLittleEndian :=
  ⟨le64dec_le64enc, le64enc_le64dec, extractLsb'_le64dec, getElem_le64enc,
    fun b0 b1 b2 b3 b4 b5 b6 b7 => toNat_le64dec #v[b0, b1, b2, b3, b4, b5, b6, b7], by decide⟩

end Sys2Proof.Machine
end

section
/-! PROOFS. Which command words name a command (R47 to R49). By the fields of R47 a word is illegal when `RSV` is not
zero or `OP` is one of the two reserved values; as numbers these are the words above `0x05`, and they are the words the
decoder refuses. Then O1 and O3. -/

namespace Sys2Proof

theorem decodeOp_eq_none_iff (op : BitVec 3) : decodeOp op = none ↔ op = 6 ∨ op = 7 := by
  revert op
  decide

theorem decode_error_iff (c : Byte) :
    (∃ e, decode c = .error e) ↔ c.extractLsb' 3 5 ≠ 0 ∨ c.extractLsb' 0 3 = 6 ∨ c.extractLsb' 0 3 = 7 := by
  rw [← decodeOp_eq_none_iff, decode]
  by_cases hrsv : c.extractLsb' 3 5 = 0#5
  · cases decodeOp (c.extractLsb' 0 3) <;> simp [hrsv]
  · simp [hrsv]

/-- `RSV` is `c / 8` and `OP` is `c % 8`. -/
theorem illegalFields_iff (c : Byte) :
    (c.extractLsb' 3 5 ≠ 0 ∨ c.extractLsb' 0 3 = 6 ∨ c.extractLsb' 0 3 = 7) ↔ 0x05 < c := by
  have hc := c.isLt
  simp only [BitVec.ofNat_eq_ofNat, ne_eq, ← BitVec.toNat_inj, BitVec.lt_def, BitVec.extractLsb'_toNat,
    BitVec.toNat_ofNat, Nat.shiftRight_eq_div_pow]
  omega

theorem decode_error_iff_lt (c : Byte) : (∃ e, decode c = .error e) ↔ 0x05 < c :=
  (decode_error_iff c).trans (illegalFields_iff c)

theorem decode_ok_iff_not_lt (c : Byte) : (∃ i, decode c = .ok i) ↔ ¬0x05 < c := by
  rw [← decode_error_iff_lt]
  cases decode c <;> simp

theorem commandWordWellFormed_iff (c : Byte) : commandWordWellFormed c = true ↔ ¬0x05 < c := by
  rw [← illegalFields_iff]
  simp [commandWordWellFormed, and_assoc]

theorem countP_le_range (a n : Nat) : (List.range (a + n)).countP (fun m => decide (a ≤ m)) = n := by
  induction n with
  | zero => simp [List.countP_eq_zero]
  | succ n ih => rw [← Nat.add_assoc, List.range_succ, List.countP_append, ih]; simp

theorem countP_not_commandWordWellFormed :
    ((List.range 256).countP fun n => !(commandWordWellFormed (BitVec.ofNat 8 n))) = 250 := by
  have illegal_iff (n : Nat) (hn : n < 256) : (!(commandWordWellFormed (BitVec.ofNat 8 n))) = true ↔ 6 ≤ n := by
    rw [Bool.not_eq_true', ← Bool.not_eq_true, commandWordWellFormed_iff, not_not, BitVec.lt_def, BitVec.toNat_ofNat,
      Nat.mod_eq_of_lt hn]
    rfl
  calc (List.range 256).countP (fun n => !(commandWordWellFormed (BitVec.ofNat 8 n)))
    _ = (List.range (6 + 250)).countP (fun n => decide (6 ≤ n)) :=
      List.countP_congr fun n hn => (illegal_iff n (List.mem_range.mp hn)).trans decide_eq_true_iff.symm
    _ = 250 := countP_le_range 6 250

/-- Settles O1: the six words by evaluation, the others because a word above `0x05` is refused. -/
theorem exactlySixWordsNameCommands : Obligations.ExactlySixWordsNameCommands :=
  ⟨rfl, rfl, rfl, rfl, rfl, rfl, fun c h => (decode_error_iff_lt c).mpr h⟩

namespace Machine

/-- R108 line 1: on an idle engine with no error pending an illegal word is refused before anything else is checked. -/
theorem issueWord_of_illegal {c : Byte} {s : State} (hs : s.Ready) (hc : ∃ e, decode c = .error e) :
    issueWord c s = .next (raiseErr .illegalCommand s) := by
  obtain ⟨hbusy, herr⟩ := hs
  obtain ⟨e, he⟩ := hc
  simp [issueWord, hbusy, herr, he]

/-- R47: only bits 7:0 of a wider write are looked at, so the fields can be read off the write itself. -/
theorem decode_commandWord_error_iff (v : Word) :
    (∃ e, decode (commandWord v) = .error e) ↔
      v.extractLsb' 3 5 ≠ 0 ∨ v.extractLsb' 0 3 = 6 ∨ v.extractLsb' 0 3 = 7 := by
  have rsv : (commandWord v).extractLsb' 3 5 = v.extractLsb' 3 5 := BitVec.extractLsb'_extractLsb'_of_le (by decide)
  have op : (commandWord v).extractLsb' 0 3 = v.extractLsb' 0 3 := BitVec.extractLsb'_extractLsb'_of_le (by decide)
  rw [decode_error_iff, rsv, op]

/-- Settles O3: the illegal words are those above `0x05`, and a step that writes one to an engine that examines it
raises error 1 in the state past the script's entry. -/
theorem illegalWordsRefusedWithCodeOne : Obligations.IllegalWordsRefusedWithCodeOne := by
  refine ⟨illegalFields_iff, fun c => (decode_error_iff_lt c).symm, fun c => (decode_ok_iff_not_lt c).symm,
    countP_not_commandWordWellFormed, fun c => (commandWordWellFormed_iff c).trans (decode_ok_iff_not_lt c).symm,
    fun s v rest hs hscript hv => ?_⟩
  calc step s
    _ = issueWord (commandWord v) (setScript rest s) := step_of_cons hscript
    _ = .next (raiseErr .illegalCommand (setScript rest s)) :=
      issueWord_of_illegal hs ((decode_commandWord_error_iff v).mpr hv)

end Machine

end Sys2Proof
end

section
/-! PROOFS. The two tables (R58, R60): a configured table has every nibble value once among its sixteen entries, so
`S_ENC` is onto, and on a finite type that makes it a bijection, of which `S_DEC` is the inverse on both sides; then
O26. -/

namespace Sys2Proof.Machine

theorem mem_nibbles (v : Nibble) : v ∈ nibbles :=
  List.mem_map.mpr ⟨v.toNat, List.mem_range.mpr v.isLt, by simp⟩

/-- The check an `Sbox` carries, read off for one value (R58). -/
theorem count_table_eq_one (T : Sbox) (v : Nibble) : T.table.toList.count v = 1 :=
  beq_iff_eq.mp (List.all_eq_true.mp T.permutation v (mem_nibbles v))

theorem sEnc_surjective (T : Sbox) : Function.Surjective (sEnc T) := by
  intro v
  have hmem : v ∈ T.table := by
    rw [← Vector.mem_toList_iff, ← List.count_pos_iff, count_table_eq_one]
    exact Nat.one_pos
  obtain ⟨i, hi, hv⟩ := Vector.getElem_of_mem hmem
  exact ⟨BitVec.ofFin ⟨i, hi⟩, hv⟩

theorem sEnc_bijective (T : Sbox) : Function.Bijective (sEnc T) :=
  Function.Surjective.bijective_of_finite (sEnc_surjective T)

/-- The search of `S_DEC` finds an index, because `S_ENC` is onto, and what it finds has the value looked for. -/
@[simp] theorem sEnc_sDec (T : Sbox) (m : Nibble) : sEnc T (sDec T m) = m := by
  obtain ⟨n, hn⟩ := sEnc_surjective T m
  have hfound : (nibbles.find? fun n => sEnc T n == m).isSome :=
    List.find?_isSome.mpr ⟨n, mem_nibbles n, beq_iff_eq.mpr hn⟩
  obtain ⟨n', hn'⟩ := Option.isSome_iff_exists.mp hfound
  have hv : sEnc T n' = m := by simpa using List.find?_some hn'
  simpa [sDec, hn'] using hv

@[simp] theorem sDec_sEnc (T : Sbox) (n : Nibble) : sDec T (sEnc T n) = n :=
  (sEnc_bijective T).injective (sEnc_sDec T (sEnc T n))

theorem sDec_bijective (T : Sbox) : Function.Bijective (sDec T) :=
  Function.bijective_iff_has_inverse.mpr ⟨sEnc T, sEnc_sDec T, sDec_sEnc T⟩

/-- Settles O26: `S_ENC` is a bijection by the check every table carries, and `S_DEC` is its inverse. -/
theorem tablesAreInverseBijections : Obligations.TablesAreInverseBijections := fun T =>
  ⟨(sEnc_bijective T).existsUnique, fun v _ => count_table_eq_one T v, sDec_sEnc T, sDec_bijective T⟩

end Sys2Proof.Machine
end

section
/-! PROOFS. The substitutions (R61, R62): each nibble of the result is the table's value at the same nibble of the
operand. An operand whose nibbles are all equal therefore gives a result whose nibbles are all equal, which is the
product of one nibble and `0x11...1`; then O27. -/

namespace Sys2Proof.Machine

theorem extractLsb'_sub32 (f : Nibble → Nibble) (v : Half) (j : Fin 8) :
    (sub32 f v).extractLsb' (4 * j) 4 = f (v.extractLsb' (4 * j) 4) := by
  refine BitVec.eq_of_getLsbD_eq fun i hi => ?_
  simp only [BitVec.getLsbD_extractLsb', sub32, nibbleOf, BitVec.getLsbD_append]
  fin_cases j <;> simp +arith [hi]

theorem extractLsb'_sub8_high (f : Nibble → Nibble) (b : Byte) :
    (sub8 f b).extractLsb' 4 4 = f (b.extractLsb' 4 4) :=
  BitVec.extractLsb'_append_eq_left

theorem extractLsb'_sub8_low (f : Nibble → Nibble) (b : Byte) :
    (sub8 f b).extractLsb' 0 4 = f (b.extractLsb' 0 4) :=
  BitVec.extractLsb'_append_eq_right

theorem extractLsb'_repeatedNibble (n : Nibble) (j : Fin 8) :
    (0x11111111 * n.setWidth 32 : Half).extractLsb' (4 * j) 4 = n := by
  revert n j
  decide

theorem nibblePair_self (n : Nibble) : (n ++ n : Byte) = 0x11 * n.setWidth 8 := by
  revert n
  decide

theorem sub32_of_equalNibbles (f : Nibble → Nibble) {v : Half} {n : Nibble}
    (hv : ∀ j : Fin 8, v.extractLsb' (4 * j) 4 = n) : sub32 f v = 0x11111111 * (f n).setWidth 32 :=
  half_eq_of_nibbles fun j => by rw [extractLsb'_sub32, hv, extractLsb'_repeatedNibble]

theorem sub32_zero (f : Nibble → Nibble) : sub32 f 0 = 0x11111111 * (f 0).setWidth 32 :=
  sub32_of_equalNibbles f (by decide)

theorem sub32_allOnes (f : Nibble → Nibble) : sub32 f 0xFFFFFFFF = 0x11111111 * (f 15).setWidth 32 :=
  sub32_of_equalNibbles f (by decide)

theorem sub8_zero (f : Nibble → Nibble) : sub8 f 0 = 0x11 * (f 0).setWidth 8 :=
  nibblePair_self (f 0)

/-- Settles O27: nibble by nibble, from which the corner cases follow; the worked examples by evaluation. -/
theorem substitutionKeepsNibblePositions : Obligations.SubstitutionKeepsNibblePositions :=
  ⟨extractLsb'_sub32, fun f => ⟨sub32_zero f, sub32_allOnes f⟩,
    fun f b => ⟨extractLsb'_sub8_high f b, extractLsb'_sub8_low f b⟩, sub8_zero, by decide⟩

end Sys2Proof.Machine
end

section
/-! PROOFS. Steps 1 to 3 of a schedule iteration (R68 to R70): steps 2 and 3 put `k1` together from two fields, one that
is kept and one that is new, and each field is read back as it was put in; then O23. -/

namespace Sys2Proof.Machine

/-- Bits 63:8 of `K1W` are kept by step 2. -/
@[simp] theorem extractLsb'_substLowByte_high (T : Sbox) (p : RoundKey) :
    (substLowByte T p).k1.extractLsb' 8 56 = p.k1.extractLsb' 8 56 :=
  BitVec.extractLsb'_append_eq_left

@[simp] theorem extractLsb'_substLowByte_low (T : Sbox) (p : RoundKey) :
    (substLowByte T p).k1.extractLsb' 0 8 = sub8 (sEnc T) (p.k1.extractLsb' 0 8) :=
  BitVec.extractLsb'_append_eq_right

/-- Bits 58:0 of `K1W` are kept by step 3. -/
@[simp] theorem extractLsb'_injectConstant_low (c : BitVec 5) (p : RoundKey) :
    (injectConstant c p).k1.extractLsb' 0 59 = p.k1.extractLsb' 0 59 :=
  BitVec.extractLsb'_append_eq_right

@[simp] theorem extractLsb'_injectConstant_high (c : BitVec 5) (p : RoundKey) :
    (injectConstant c p).k1.extractLsb' 59 5 = p.k1.extractLsb' 59 5 ^^^ c :=
  BitVec.extractLsb'_append_eq_left

/-- R69, corner case: both nibbles of a low byte 0 become `S_ENC[0]`. -/
theorem extractLsb'_substLowByte_of_low_zero (T : Sbox) {p : RoundKey} (h : p.k1.extractLsb' 0 8 = 0) :
    (substLowByte T p).k1.extractLsb' 0 8 = 0x11 * (sEnc T 0).setWidth 8 := by
  rw [extractLsb'_substLowByte_low, h, sub8_zero]

/-- R70, corner case: the constant 0 puts both fields of `k1` back as they were. -/
theorem injectConstant_zero (p : RoundKey) : injectConstant 0 p = p := by
  have fields_append : p.k1.extractLsb' 59 5 ++ p.k1.extractLsb' 0 59 = p.k1 :=
    (BitVec.extractLsb'_append_extractLsb'_eq_extractLsb' rfl).trans BitVec.extractLsb'_eq_self
  simp [injectConstant, fields_append]

/-- Settles O23: step 1 by definition, steps 2 and 3 field by field, the worked examples by evaluation. -/
theorem scheduleStepsOneToThree : Obligations.ScheduleStepsOneToThree :=
  ⟨fun _ => ⟨rfl, rfl⟩,
    fun T p => ⟨rfl, extractLsb'_substLowByte_high T p, extractLsb'_substLowByte_low T p⟩,
    fun _ p _ => ⟨rfl, extractLsb'_injectConstant_high _ p, extractLsb'_injectConstant_low _ p⟩,
    by decide, by decide, fun T _ => extractLsb'_substLowByte_of_low_zero T, by decide, injectConstant_zero,
    by decide⟩

end Sys2Proof.Machine
end

section
/-! PROOFS. `KGEN` (R75, R76): its acceptance, its two completions, and why nothing but a reset touches the schedule
once `KSV = 1`: of the operations a step is made of, only a reset and the completion of `KGEN` write `KS` or `KSV`, and
that completion does so only while `KSV = 0`; then O21. -/

namespace Sys2Proof.Machine

@[simp] theorem regRead_ks_ksv (n : BitVec 3) (s : State) :
    (regRead n s).ks = s.ks ∧ (regRead n s).ksv = s.ksv := by
  rw [regRead_eq]
  exact ⟨rfl, rfl⟩

@[simp] theorem bufRead_ks_ksv (sp : Space) (a : Nat) (s : State) :
    (bufRead sp a s).ks = s.ks ∧ (bufRead sp a s).ksv = s.ksv := by
  rw [bufRead_eq]
  exact ⟨rfl, rfl⟩

@[simp] theorem pollStatus_ks_ksv (early : Nat) (s : State) :
    (pollStatus early s).ks = s.ks ∧ (pollStatus early s).ksv = s.ksv := by
  rw [pollStatus_eq]
  exact ⟨rfl, rfl⟩

@[simp] theorem regWrite_ks_ksv (n : BitVec 3) (v : Word) (s : State) :
    (regWrite n v s).ks = s.ks ∧ (regWrite n v s).ksv = s.ksv := by
  obtain h | ⟨-, -, -, h⟩ | ⟨-, -, h⟩ | ⟨-, -, h⟩ := regWrite_cases n v s <;> simp [h]

@[simp] theorem bufWrite_ks_ksv (a : Nat) (b : Byte) (s : State) :
    (bufWrite a b s).ks = s.ks ∧ (bufWrite a b s).ksv = s.ksv := by
  obtain h | ⟨-, -, h⟩ := bufWrite_cases a b s <;> simp [h]

@[simp] theorem issue_ks_ksv (i : Instr) (s : State) : (issue i s).ks = s.ks ∧ (issue i s).ksv = s.ksv := by
  obtain ⟨-, h⟩ | ⟨-, -, -, h⟩ | ⟨-, -, -, -, h⟩ | ⟨-, -, -, h⟩ := issue_cases i s <;> simp [h]

theorem ks_ksv_of_issueWord {c : Byte} {s t : State} (h : issueWord c s = .next t) :
    t.ks = s.ks ∧ t.ksv = s.ksv := by
  obtain ⟨-, hw⟩ | ⟨-, -, hw⟩ | ⟨i, -, -, hw⟩ := issueWord_cases c s <;>
    · cases hw.symm.trans h
      simp

/-- R76: of the completions only that of `KGEN` with `KSV = 0` writes `KS` or `KSV`. -/
theorem ks_ksv_of_complete {i : Instr} {s t : State} (h : complete i s = .next t) :
    (t.ks = s.ks ∧ t.ksv = s.ksv) ∨ (i = .kgen ∧ s.ksv = false) := by
  obtain ⟨-, rfl⟩ | ⟨-, -, rfl⟩ | ⟨hi, hv, -⟩ | ⟨-, rfl⟩ | ⟨-, rfl⟩ | ⟨d, -, -, rfl⟩ := complete_cases h
  case inr.inr.inl => exact .inr ⟨hi, hv⟩
  all_goals exact .inl ⟨rfl, rfl⟩

theorem ks_ksv_of_engineTurn {s t : State} (h : engineTurn s = .next t) :
    (t.ks = s.ks ∧ t.ksv = s.ksv) ∨ (s.InProgress .kgen ∧ s.ksv = false) := by
  obtain ⟨-, rfl⟩ | ⟨i, hp, hc⟩ := engineTurn_cases h
  · exact .inl ⟨rfl, rfl⟩
  · obtain hkept | ⟨rfl, hv⟩ := ks_ksv_of_complete hc
    · exact .inl hkept
    · exact .inr ⟨hp, hv⟩

/-- Who writes `KS` and `KSV`: apart from a reset, only the engine's turn with `KGEN` in progress and `KSV = 0`. -/
theorem ks_ksv_of_step {s t : State} (h : step s = .next t) (hr : ¬s.ResetNext) :
    (t.ks = s.ks ∧ t.ksv = s.ksv) ∨ ((∃ rest, s.EngineTurn rest) ∧ s.InProgress .kgen ∧ s.ksv = false) := by
  obtain ⟨rest, hturn, he⟩ | ⟨rest, hs, -⟩ | ⟨n, rest, -, rfl⟩ | ⟨n, v, rest, -, -, hw⟩ | ⟨n, v, rest, -, -, rfl⟩ |
    ⟨a, b, rest, -, rfl⟩ | ⟨sp, a, rest, -, rfl⟩ | ⟨early, rest, -, rfl⟩ := step_cases h
  · obtain hkept | hkgen := ks_ksv_of_engineTurn he
    · exact .inl hkept
    · exact .inr ⟨⟨rest, hturn⟩, hkgen⟩
  · exact absurd (congrArg List.head? hs) hr
  · exact .inl (regRead_ks_ksv n (setScript rest s))
  · exact .inl (ks_ksv_of_issueWord (s := setScript rest s) hw)
  · exact .inl (regWrite_ks_ksv n v (setScript rest s))
  · exact .inl (bufWrite_ks_ksv a b (setScript rest s))
  · exact .inl (bufRead_ks_ksv sp a (setScript rest s))
  · exact .inl (pollStatus_ks_ksv early (setScript rest s))

/-- R76: a valid schedule is kept by every step but a reset. -/
theorem ks_ksv_of_step_of_ksv_true {s t : State} (h : step s = .next t) (hv : s.ksv = true) (hr : ¬s.ResetNext) :
    t.ks = s.ks ∧ t.ksv = true := by
  obtain ⟨hks, hksv⟩ | ⟨-, -, hv'⟩ := ks_ksv_of_step h hr
  · exact ⟨hks, hksv.trans hv⟩
  · cases hv.symm.trans hv'

/-- R108 line 4: a command that no check concerns, or that passes the checks, is accepted. -/
theorem exec_of_ready {i : Instr} {s : State} (hs : s.Ready) (hkey : needsKey i = true → s.ksv = true)
    (hlen : needsLength i = true → s.len.toNat ≤ s.cfg.bufBytes) : exec i s = .next (accept i s) := by
  obtain ⟨hbusy, herr⟩ := hs
  rw [exec_of_idle hbusy]
  obtain ⟨herr', -⟩ | ⟨-, hk, hv, -⟩ | ⟨-, -, hl, hlt, -⟩ | ⟨-, -, -, h⟩ := issue_cases i s
  · cases herr.symm.trans herr'
  · cases hv.symm.trans (hkey hk)
  · exact absurd (hlen hl) (Nat.not_le.mpr hlt)
  · rw [h]

/-- The end of a completion (R111) changes `BUSY` and what R26 leaves unspecified. -/
theorem finish_eq_withWorkOf (s : State) : finish s = { s.withWorkOf (finish s) with busy := false } := rfl

/-- R75: with `KSV = 0` the completion of `KGEN` fills the schedule. -/
theorem exec_kgen_of_ksv_false {s : State} (hp : s.InProgress .kgen) (hv : s.ksv = false) :
    exec .kgen s = .next (finish { s with ks := keyScheduleGen s.cfg.sbox, ksv := true }) := by
  rw [exec_of_inProgress hp]
  simp [complete, completeKgen, hv]

/-- R76: with `KSV = 1` it is the common end alone. -/
theorem exec_kgen_of_ksv_true {s : State} (hp : s.InProgress .kgen) (hv : s.ksv = true) :
    exec .kgen s = .next (finish s) := by
  rw [exec_of_inProgress hp]
  simp [complete, completeKgen, hv]

/-- Settles O21: `KGEN` is accepted because no check concerns it, its completion depends on `KSV` alone, and a step
that is no reset keeps a valid schedule. -/
theorem kgenFillsTheScheduleOnce : Obligations.KgenFillsTheScheduleOnce :=
  ⟨rfl, fun _ hs => exec_of_ready hs nofun nofun,
    fun _ hp hv => ⟨_, exec_kgen_of_ksv_false hp hv, rfl⟩,
    fun s hp hv => ⟨_, exec_kgen_of_ksv_true hp hv, finish_eq_withWorkOf s⟩,
    fun _ _ => ks_ksv_of_step_of_ksv_true⟩

end Sys2Proof.Machine
end

section
/-! PROOFS. The rotations (R79, R80): by 1 to 31 places they are the library's rotations, so the bits of a rotated value
are those of the operand at the index moved back, modulo 32; then O29. -/

namespace Sys2Proof.Machine

theorem rol32_eq_rotateLeft (v : Half) {n : Nat} (hn : n < 32) : rol32 v n = v.rotateLeft n := by
  rw [BitVec.rotateLeft, Nat.mod_eq_of_lt hn]
  rfl

theorem ror32_eq_rotateRight (v : Half) {n : Nat} (hn : n < 32) : ror32 v n = v.rotateRight n := by
  rw [BitVec.rotateRight, Nat.mod_eq_of_lt hn]
  rfl

theorem getLsbD_rol32 (v : Half) {n i : Nat} (hn : n < 32) (hi : i < 32) :
    (rol32 v n).getLsbD i = v.getLsbD ((i + 32 - n) % 32) := by
  rw [rol32_eq_rotateLeft v hn, BitVec.getLsbD_rotateLeft_of_le hn]
  by_cases hwrap : i < n
  · rw [show (i + 32 - n) % 32 = 32 - n + i by omega]
    simp [hwrap]
  · rw [show (i + 32 - n) % 32 = i - n by omega]
    simp [hwrap, hi]

theorem getLsbD_ror32 (v : Half) {n i : Nat} (hn : n < 32) (hi : i < 32) :
    (ror32 v n).getLsbD i = v.getLsbD ((i + n) % 32) := by
  rw [ror32_eq_rotateRight v hn, BitVec.getLsbD_rotateRight_of_lt hn]
  by_cases hwrap : i < 32 - n
  · rw [show (i + n) % 32 = n + i by omega]
    simp [hwrap]
  · rw [show (i + n) % 32 = i - (32 - n) by omega]
    simp [hwrap, hi]

/-- R79: bit `j` moves to bit `(j + n) mod 32`. -/
theorem getLsbD_rol32_moved (v : Half) {n j : Nat} (hn : n < 32) (hj : j < 32) :
    (rol32 v n).getLsbD ((j + n) % 32) = v.getLsbD j := by
  rw [getLsbD_rol32 v hn (by omega), show ((j + n) % 32 + 32 - n) % 32 = j by omega]

/-- R80: bit `j` moves to bit `(j - n) mod 32`. -/
theorem getLsbD_ror32_moved (v : Half) {n j : Nat} (hn : n < 32) (hj : j < 32) :
    (ror32 v n).getLsbD ((j + 32 - n) % 32) = v.getLsbD j := by
  rw [getLsbD_ror32 v hn (by omega), show ((j + 32 - n) % 32 + n) % 32 = j by omega]

theorem ror32_rol32 (v : Half) {n : Nat} (hn : n < 32) : ror32 (rol32 v n) n = v :=
  BitVec.eq_of_getLsbD_eq fun i hi => by rw [getLsbD_ror32 _ hn hi, getLsbD_rol32_moved v hn hi]

theorem rol32_zero (n : Nat) : rol32 0 n = 0 := by
  simp [rol32]

/-- Settles O29: the formulas by definition, the bits and the inverse law bit by bit, the worked examples by
evaluation. -/
theorem rotationsMoveEachBit : Obligations.RotationsMoveEachBit := by
  refine ⟨fun v n _ hn => ?_, by decide⟩
  have hlt : n < 32 := by omega
  exact ⟨rfl, rfl, fun j => getLsbD_rol32_moved v hlt, fun j => getLsbD_ror32_moved v hlt, ror32_rol32 v hlt⟩

end Sys2Proof.Machine
end

section
/-! PROOFS. The 25 rounds of a block (R83, R85), state by state: the fold over the first `i` round indices upward, and
the fold over those from `i` on downward; then O34. -/

namespace Sys2Proof.Machine

@[simp] theorem length_rounds : rounds.length = 25 := List.length_finRange

@[simp] theorem getElem_rounds {i : Nat} (hi : i < rounds.length) :
    rounds[i] = ⟨i, hi.trans_eq length_rounds⟩ := List.getElem_finRange hi

/-- R83: the halves before round `i` of an encryption, which for `i = 25` are the last. -/
def encStates (T : Sbox) (ks : Vector RoundKey 25) (w : Word) (i : Fin 26) : Halves :=
  (rounds.take i).foldl (fun x r => encRound T ks[r] x) (splitWord w)

/-- R85: the halves of a decryption once the rounds from 24 down to `i` are done, which for `i = 25` are none. -/
def decStates (T : Sbox) (ks : Vector RoundKey 25) (w : Word) (i : Fin 26) : Halves :=
  (rounds.drop i).foldr (fun r x => decRound T ks[r] x) (splitWord w)

theorem encStates_succ (T : Sbox) (ks : Vector RoundKey 25) (w : Word) (r : Fin 25) :
    encStates T ks w r.succ = encRound T ks[r] (encStates T ks w r.castSucc) := by
  have htake : rounds.take (r + 1) = rounds.take r ++ [r] := by
    rw [List.take_succ_eq_append_getElem (by simp), getElem_rounds]
  simp only [encStates, Fin.val_succ, Fin.val_castSucc, htake, List.foldl_append, List.foldl_cons, List.foldl_nil]

theorem decStates_castSucc (T : Sbox) (ks : Vector RoundKey 25) (w : Word) (r : Fin 25) :
    decStates T ks w r.castSucc = decRound T ks[r] (decStates T ks w r.succ) := by
  have hdrop : rounds.drop r = r :: rounds.drop (r + 1) := by
    rw [List.drop_eq_getElem_cons (by simp), getElem_rounds]
  simp only [decStates, Fin.val_succ, Fin.val_castSucc, hdrop, List.foldr_cons]

theorem encryptBlock_eq_encStates (T : Sbox) (ks : Vector RoundKey 25) (w : Word) :
    encryptBlock T ks w = joinHalves (encStates T ks w (Fin.last 25)) := by
  rw [encStates, Fin.val_last, List.take_of_length_le length_rounds.le, encryptBlock]

theorem decryptBlock_eq_decStates (T : Sbox) (ks : Vector RoundKey 25) (w : Word) :
    decryptBlock T ks w = joinHalves (decStates T ks w 0) := by
  rw [decStates, Fin.val_zero, List.drop_zero, decryptBlock, List.foldl_reverse]

/-- Settles O34: the states are the partial folds; a round more is one step of the fold. -/
theorem blocksRunTwentyFiveRounds : Obligations.BlocksRunTwentyFiveRounds := fun T ks w =>
  ⟨⟨encStates T ks w, rfl, encStates_succ T ks w, encryptBlock_eq_encStates T ks w⟩,
    ⟨decStates T ks w, rfl, decStates_castSucc T ks w, decryptBlock_eq_decStates T ks w⟩⟩

end Sys2Proof.Machine
end

section
/-! PROOFS. One encryption round (R82): its formula, and its corner case of zero halves and key, where only the
substitution is left; then O31. -/

namespace Sys2Proof.Machine

/-- R82: a round does not read the `k0` of its key. -/
theorem encRound_eq_of_k0 (T : Sbox) (k0 k0' k1 : Word) (x : Halves) :
    encRound T ⟨k0, k1⟩ x = encRound T ⟨k0', k1⟩ x := rfl

/-- R82, corner case: with nothing to mix in, step 2 gives the substitution of 0 and step 3 its rotation. -/
theorem encRound_zero (T : Sbox) (k0 : Word) :
    encRound T ⟨k0, 0⟩ ⟨0, 0⟩ = ⟨sub32 (sEnc T) 0, rol32 (sub32 (sEnc T) 0) 10⟩ := by
  simp [encRound, keyLow, keyHigh, ror32]

theorem repeatedNibble_eq_zero_iff (n : Nibble) : (0x11111111 * n.setWidth 32 : Half) = 0 ↔ n = 0 := by
  revert n
  decide

/-- R82: from zero halves and `k1 = 0` the result is zero only when `S_ENC[0] = 0`. -/
theorem encRound_zero_eq_zero_iff (T : Sbox) (k0 : Word) :
    encRound T ⟨k0, 0⟩ ⟨0, 0⟩ = ⟨0, 0⟩ ↔ sEnc T 0 = 0 := by
  have hupper (u : Half) (h : u = 0) : rol32 u 10 = 0 := h ▸ rol32_zero 10
  rw [encRound_zero, Halves.mk.injEq, and_iff_left_of_imp (hupper _), sub32_zero, repeatedNibble_eq_zero_iff]

/-- Settles O31: the three steps by definition, the corner case by the substitution of 0, the worked example by
evaluation. -/
theorem encryptionRoundFollowsItsSteps : Obligations.EncryptionRoundFollowsItsSteps :=
  ⟨fun _ _ _ _ => rfl,
    fun T k0 => ⟨sub32_zero (sEnc T) ▸ encRound_zero T k0, encRound_zero_eq_zero_iff T k0⟩,
    fun k0 => (encRound_eq_of_k0 tableEx k0 0 _ _).trans (by decide)⟩

end Sys2Proof.Machine
end

section
/-! PROOFS. The block commands `ENCB` (R89) and `DECB` (R90): acceptance, the refusal while `KSV = 0`, and completion;
then O37 and O38. -/

namespace Sys2Proof.Machine

/-- R108 line 2: a command that needs the schedule is refused with code 2 while `KSV = 0`, whatever `LEN` is. -/
theorem exec_of_ready_of_ksv_false {i : Instr} {s : State} (hs : s.Ready) (hkey : needsKey i = true)
    (hv : s.ksv = false) : exec i s = .next (raiseErr .keyNotReady s) := by
  obtain ⟨hbusy, herr⟩ := hs
  rw [exec_of_idle hbusy]
  simp [issue, herr, hkey, hv]

/-- R89: the completion of `ENCB`. -/
theorem exec_encb_of_inProgress {s : State} (hp : s.InProgress .encb) :
    exec .encb s = .next (finish { s with dout := encryptBlock s.cfg.sbox s.ks s.din }) :=
  exec_of_inProgress hp

/-- R90: the completion of `DECB`. -/
theorem exec_decb_of_inProgress {s : State} (hp : s.InProgress .decb) :
    exec .decb s = .next (finish { s with dout := decryptBlock s.cfg.sbox s.ks s.din }) :=
  exec_of_inProgress hp

/-- Settles O37: `KSV` decides acceptance, the completion writes `DOUT` before the common end, and the worked example
is evaluated. -/
theorem encbEncryptsDin : Obligations.EncbEncryptsDin :=
  ⟨rfl, fun _ hs hv => exec_of_ready hs (fun _ => hv) nofun,
    fun _ hs hv => exec_of_ready_of_ksv_false hs rfl hv,
    fun _ hp => ⟨_, exec_encb_of_inProgress hp, rfl⟩, by decide +kernel⟩

/-- Settles O38: acceptance and refusal as for every command that needs the schedule, the completion by its own lemma,
and the worked example is evaluated. -/
theorem decbDecryptsDin : Obligations.DecbDecryptsDin :=
  ⟨rfl, fun _ hs hv => exec_of_ready hs (fun _ => hv) nofun,
    fun _ hs hv => exec_of_ready_of_ksv_false hs rfl hv,
    fun _ hp => ⟨_, exec_decb_of_inProgress hp, rfl⟩, by decide +kernel⟩

end Sys2Proof.Machine
end

section
/-! PROOFS. The buffer transform (R96 to R98): what it does to a full chunk followed by more bytes and to fewer than 8
bytes. From these two, leaving out whole chunks in front commutes with it (`drop_transform`), as does reading the first
8 bytes alone (`take_transform`), so an output chunk is the transform of the input chunk; then O42 and O43. -/

namespace Sys2Proof.Machine

/-- R96: a full chunk in front is transformed in place, and the rest as if it stood alone. -/
theorem transform_chunk_append (T : Sbox) (ks : Vector RoundKey 25) (d : Direction) (chunk : Vector Byte 8)
    (rest : List Byte) :
    transform T ks d (chunk.toList ++ rest) = (chunkOp T ks d chunk).toList ++ transform T ks d rest := by
  have hbytes : chunk = #v[chunk[0], chunk[1], chunk[2], chunk[3], chunk[4], chunk[5], chunk[6], chunk[7]] :=
    Vector.ext fun j hj => by interval_cases j <;> rfl
  rw [hbytes]
  rfl

theorem transform_chunk (T : Sbox) (ks : Vector RoundKey 25) (d : Direction) (chunk : Vector Byte 8) :
    transform T ks d chunk.toList = (chunkOp T ks d chunk).toList := by
  simpa [transform] using transform_chunk_append T ks d chunk []

/-- R97: fewer than 8 bytes are copied. -/
theorem transform_of_length_lt (T : Sbox) (ks : Vector RoundKey 25) (d : Direction) {bytes : List Byte}
    (h : bytes.length < 8) : transform T ks d bytes = bytes := by
  fun_cases transform T ks d bytes with
  | case1 => simp only [List.length_cons] at h; omega
  | case2 => rfl

theorem length_transform (T : Sbox) (ks : Vector RoundKey 25) (d : Direction) (bytes : List Byte) :
    (transform T ks d bytes).length = bytes.length := by
  fun_induction transform T ks d bytes with
  | case1 _ _ _ _ _ _ _ _ rest ih => simp only [List.length_append, Vector.length_toList, ih, List.length_cons]; omega
  | case2 tail => rfl

/-- The two cases of `transform` (R96, R97). -/
theorem length_lt_or_eq_chunk_append (bytes : List Byte) :
    bytes.length < 8 ∨ ∃ (chunk : Vector Byte 8) (rest : List Byte), bytes = chunk.toList ++ rest := by
  obtain h | h := Nat.lt_or_ge bytes.length 8
  · exact .inl h
  · exact .inr ⟨⟨(bytes.take 8).toArray, by simp [h]⟩, bytes.drop 8, (List.take_append_drop 8 bytes).symm⟩

theorem drop_eight_transform (T : Sbox) (ks : Vector RoundKey 25) (d : Direction) (bytes : List Byte) :
    (transform T ks d bytes).drop 8 = transform T ks d (bytes.drop 8) := by
  obtain h | ⟨chunk, rest, rfl⟩ := length_lt_or_eq_chunk_append bytes
  · rw [transform_of_length_lt T ks d h, List.drop_eq_nil_of_le h.le]
    rfl
  · rw [transform_chunk_append, List.drop_left' Vector.length_toList, List.drop_left' Vector.length_toList]

/-- Whole chunks in front do not matter to what follows them (R102). -/
theorem drop_transform (T : Sbox) (ks : Vector RoundKey 25) (d : Direction) (bytes : List Byte) (i : Nat) :
    (transform T ks d bytes).drop (8 * i) = transform T ks d (bytes.drop (8 * i)) := by
  induction i generalizing bytes with
  | zero => rfl
  | succ i ih => rw [Nat.mul_succ, Nat.add_comm, ← List.drop_drop, drop_eight_transform, ih, List.drop_drop]

/-- What follows the first chunk does not matter to it (R102). -/
theorem take_transform (T : Sbox) (ks : Vector RoundKey 25) (d : Direction) (bytes : List Byte) :
    (transform T ks d bytes).take 8 = transform T ks d (bytes.take 8) := by
  obtain h | ⟨chunk, rest, rfl⟩ := length_lt_or_eq_chunk_append bytes
  · rw [transform_of_length_lt T ks d h, List.take_of_length_le h.le, transform_of_length_lt T ks d h]
  · rw [transform_chunk_append, List.take_left' Vector.length_toList, List.take_left' Vector.length_toList,
      transform_chunk]

/-- R102: an output chunk is the transform of the input chunk at its offset. -/
theorem take_drop_transform (T : Sbox) (ks : Vector RoundKey 25) (d : Direction) (bytes : List Byte) (i : Nat) :
    ((transform T ks d bytes).drop (8 * i)).take 8 = transform T ks d ((bytes.drop (8 * i)).take 8) := by
  rw [drop_transform, take_transform]

/-- R97: what follows the last full chunk is copied. -/
theorem drop_full_chunks_transform (T : Sbox) (ks : Vector RoundKey 25) (d : Direction) (bytes : List Byte) :
    (transform T ks d bytes).drop (8 * (bytes.length / 8)) = bytes.drop (8 * (bytes.length / 8)) := by
  have htail : (bytes.drop (8 * (bytes.length / 8))).length < 8 := by
    rw [List.length_drop]
    omega
  rw [drop_transform, transform_of_length_lt T ks d htail]

/-- Settles O42: the length, then the output chunk as the transform of the input chunk, then the copied tail. -/
theorem transformWorksChunkByChunk : Obligations.TransformWorksChunkByChunk := by
  intro T ks d bytes
  refine ⟨length_transform T ks d bytes, fun i chunk _ hchunk => ?_, fun j hj => ?_⟩
  · rw [take_drop_transform, hchunk, transform_chunk]
    cases d <;> rfl
  · obtain ⟨k, rfl⟩ := Nat.exists_eq_add_of_le hj
    rw [← List.getElem?_drop, drop_full_chunks_transform, List.getElem?_drop]

/-- Settles O43: both output chunks are the transform of the one input chunk. -/
theorem chunksAreIndependent : Obligations.ChunksAreIndependent := by
  intro T ks d a b i j _ _ heq
  rw [take_drop_transform, take_drop_transform, heq]

end Sys2Proof.Machine
end

section
/-! PROOFS. A word written to `CMD` (R108, R109): ignored while `BUSY = 1` or `ERR = 1`, else refused as illegal or
handed to its command. What R108 says of `OP` is what the model asks of the command that `OP` names; then O7, O8 and O20. -/

namespace Sys2Proof.Machine

/-- R109: a command word is ignored while `BUSY = 1` or `ERR = 1`. -/
theorem issueWord_of_busy_or_err (c : Byte) {s : State} (h : s.busy = true ∨ s.err = true) :
    issueWord c s = .next s := by
  obtain hbusy | herr := h
  · simp [issueWord, hbusy]
  · simp [issueWord, herr]

/-- On an engine that examines it, a legal word is its command. -/
theorem issueWord_of_legal {c : Byte} {i : Instr} {s : State} (hs : s.Ready) (hc : decode c = .ok i) :
    issueWord c s = exec i s := by
  obtain ⟨hbusy, herr⟩ := hs
  simp [issueWord, hbusy, herr, hc]

theorem opcode_of_decode {c : Byte} {i : Instr} (h : decode c = .ok i) : opcode i = c.extractLsb' 0 3 := by
  unfold decode at h
  split at h
  · cases hop : decodeOp (c.extractLsb' 0 3) with
    | none => simp [hop] at h
    | some j =>
      obtain rfl : j = i := by simpa [hop] using h
      exact (opcode_of_decodeOp hop).symm
  · cases h

/-- Past line 1 of R108 a written word is a command, the one its `OP` names. -/
theorem exists_decode_commandWord {v : Word}
    (hv : ¬(v.extractLsb' 3 5 ≠ 0 ∨ v.extractLsb' 0 3 = 6 ∨ v.extractLsb' 0 3 = 7)) :
    ∃ i, decode (commandWord v) = .ok i ∧ opcode i = v.extractLsb' 0 3 := by
  cases hd : decode (commandWord v) with
  | error e => exact absurd ((decode_commandWord_error_iff v).mp ⟨e, hd⟩) hv
  | ok i =>
    have op : (commandWord v).extractLsb' 0 3 = v.extractLsb' 0 3 := BitVec.extractLsb'_extractLsb'_of_le (by decide)
    exact ⟨i, rfl, (opcode_of_decode hd).trans op⟩

theorem needsKey_iff (i : Instr) :
    needsKey i = true ↔ opcode i = 2 ∨ opcode i = 3 ∨ opcode i = 4 ∨ opcode i = 5 := by
  cases i <;> decide

theorem needsLength_iff (i : Instr) : needsLength i = true ↔ opcode i = 4 ∨ opcode i = 5 := by
  cases i <;> decide

/-- R108 line 3: past the check of the schedule, a buffer command is refused with code 3 while `LEN > BUF_BYTES`. -/
theorem exec_of_ready_of_beyond {i : Instr} {s : State} (hs : s.Ready) (hkey : needsKey i = true → s.ksv = true)
    (hlen : needsLength i = true) (hb : s.cfg.bufBytes < s.len.toNat) :
    exec i s = .next (raiseErr .lengthRange s) := by
  obtain ⟨hbusy, herr⟩ := hs
  have line2 : (needsKey i && !s.ksv) = false := by simpa using hkey
  rw [exec_of_idle hbusy]
  simp [issue, herr, line2, hlen, hb]

/-- Past line 1 of R108 the step that writes the word is the command that `OP` names, past the script's entry. -/
theorem step_eq_exec_of_legal {s : State} {v : Word} {rest : List Txn} (hs : s.Ready)
    (hscript : s.script = .regWrite 0 v :: rest)
    (hv : ¬(v.extractLsb' 3 5 ≠ 0 ∨ v.extractLsb' 0 3 = 6 ∨ v.extractLsb' 0 3 = 7)) :
    ∃ i, opcode i = v.extractLsb' 0 3 ∧ step s = exec i (setScript rest s) := by
  obtain ⟨i, hd, hop⟩ := exists_decode_commandWord hv
  exact ⟨i, hop, (step_of_cons hscript).trans (issueWord_of_legal (s := setScript rest s) hs hd)⟩

/-- Settles O7: line 1 is the decoder's refusal; past it the word is the command its `OP` names, whose needs are the
conditions of lines 2 and 3. -/
theorem commandWordsExaminedInOrder : Obligations.CommandWordsExaminedInOrder := by
  intro s v rest hs hscript op line1 line2 line3
  have hs' : (setScript rest s).Ready := hs
  refine ⟨fun h1 => ?_, fun h1 h2 => ?_, fun h1 h2 h3 => ?_, fun h1 h2 h3 => ?_⟩
  · exact (step_of_cons hscript).trans (issueWord_of_illegal hs' ((decode_commandWord_error_iff v).mpr h1))
  all_goals
    obtain ⟨i, (hop : opcode i = op), hstep⟩ := step_eq_exec_of_legal hs hscript h1
    have key_iff : needsKey i = true ↔ op = 2 ∨ op = 3 ∨ op = 4 ∨ op = 5 := hop ▸ needsKey_iff i
    have length_iff : needsLength i = true ↔ op = 4 ∨ op = 5 := hop ▸ needsLength_iff i
    have key_held (h2 : ¬line2) (hk : needsKey i = true) : s.ksv = true := by
      simpa using fun hv => h2 ⟨key_iff.mp hk, hv⟩
    rw [hstep]
  · obtain ⟨hkey, hv⟩ := h2
    exact exec_of_ready_of_ksv_false hs' (key_iff.mpr hkey) hv
  · obtain ⟨hlen, hb⟩ := h3
    exact exec_of_ready_of_beyond hs' (key_held h2) (length_iff.mpr hlen) hb
  · rw [exec_of_ready hs' (key_held h2) fun hl => Nat.not_lt.mp fun hb => h3 ⟨length_iff.mp hl, hb⟩, accept, hop]
    rfl

/-- Settles O8: past the script's entry the word is ignored. -/
theorem commandWritesIgnoredWhileBusyOrError : Obligations.CommandWritesIgnoredWhileBusyOrError := by
  intro s v rest hscript h
  have ignored : s.busy = true ∨ s.err = true := h.imp_right And.right
  exact (step_of_cons hscript).trans (issueWord_of_busy_or_err (s := setScript rest s) (commandWord v) ignored)

/-- Settles O20: no check concerns `NOP`, and its completion is the common end alone. -/
theorem nopOnlyClearsBusy : Obligations.NopOnlyClearsBusy :=
  ⟨rfl, fun _ hs => exec_of_ready hs nofun nofun,
    fun s hp => ⟨_, exec_of_inProgress hp, finish_eq_withWorkOf s⟩⟩

end Sys2Proof.Machine
end

section
/-! PROOFS. The host's writes and buffer reads (R114, R115, R117): what each does on an idle engine, and that a busy one
is changed only by a reset and by its own turn; then O12, O16 and O14. -/

namespace Sys2Proof.Machine

/-- R117: register writes that are no command are ignored while `BUSY = 1`. -/
theorem regWrite_of_busy (n : BitVec 3) (v : Word) {s : State} (h : s.busy = true) : regWrite n v s = s := by
  simp [regWrite, h]

/-- R117: buffer writes are ignored while `BUSY = 1`. -/
theorem bufWrite_of_busy (a : Nat) (b : Byte) {s : State} (h : s.busy = true) : bufWrite a b s = s := by
  simp [bufWrite, h]

/-- R114: a write to `STATUS` on an idle engine. -/
theorem regWrite_status_of_idle (v : Word) {s : State} (h : s.busy = false) :
    regWrite 1 v s = if v.getLsbD 2 then clearErr s else s := by
  simp [regWrite, h, hostReg]

theorem clearErr_of_no_err {s : State} (herr : s.err = false) (hcode : s.errcode = 0) : clearErr s = s := by
  rw [clearErr, ← herr, ← hcode]

/-- Settles O12: a `STATUS` write is `clearErr` or nothing, and `clearErr` is nothing when no error is pending, because
the invariant makes `ERRCODE` 0 then. -/
theorem statusWriteClearsTheErrorOnly : Obligations.StatusWriteClearsTheErrorOnly := by
  intro s v rest hscript
  have hstep : step s = .next (regWrite 1 v (setScript rest s)) := step_of_cons hscript
  have idle (h : s.busy = false) := hstep.trans
    (congrArg Host.Outcome.next (regWrite_status_of_idle v (s := setScript rest s) h))
  refine ⟨fun h hv => ?_, fun h hv => ?_, fun h hinv herr => ?_, fun h => ?_⟩
  · rw [idle h, if_pos hv]
    rfl
  · rw [idle h, if_neg (ne_true_of_eq_false hv)]
    rfl
  · have hclear : clearErr (setScript rest s) = setScript rest s :=
      clearErr_of_no_err herr (hinv.errcodeZero.mpr herr)
    rw [idle h, hclear, ite_self]
    rfl
  · rw [hstep, regWrite_of_busy 1 v (s := setScript rest s) h]
    rfl

/-- R115: a write below the capacity on an idle engine. -/
theorem bufWrite_of_lt {a : Nat} (b : Byte) {s : State} (h : s.busy = false) (ha : a < s.cfg.bufBytes) :
    bufWrite a b s = { s with ibuf := s.ibuf.store a b } := by
  simp [bufWrite, h, ha]

/-- R31: a write at or beyond the capacity is ignored. -/
theorem bufWrite_of_le {a : Nat} (b : Byte) {s : State} (ha : s.cfg.bufBytes ≤ a) : bufWrite a b s = s := by
  simp [bufWrite, Nat.not_lt.mpr ha]

/-- A buffer read appends one reply, whose byte is the one the spec fixes where it fixes one. -/
theorem exists_bufRead_eq (sp : Space) (a : Nat) (s : State) :
    ∃ b d, bufRead sp a s = { s with replies := s.replies ++ [.byte sp a b], draws := d } ∧
      ∀ b', bufValue sp a s = some b' → b = b' := by
  cases hv : bufValue sp a s with
  | none => exact ⟨_, _, by simp only [bufRead, hv]; rfl, nofun⟩
  | some b => exact ⟨b, s.draws, by simp only [bufRead, hv]; rfl, fun _ => Option.some.inj⟩

/-- R115: on an idle engine a read below the capacity is of the byte last written there. -/
theorem bufValue_of_idle (sp : Space) {a : Nat} {s : State} (h : s.busy = false) (ha : a < s.cfg.bufBytes) :
    bufValue sp a s = (spaceOf s sp).lookup a := by
  simp [bufValue, h, Nat.not_le.mpr ha]

/-- Settles O16: a write below the capacity is a store, one at or beyond it nothing, and a read is of the space's own
byte. -/
theorem bufferTransactionsWhenIdle : Obligations.BufferTransactionsWhenIdle := by
  intro s a rest hidle
  refine ⟨fun b hscript ha => ?_, fun b hscript ha => ?_, fun sp hscript => ?_⟩
  · have hstep : step s = .next (bufWrite a b (setScript rest s)) := step_of_cons hscript
    rw [bufWrite_of_lt b (s := setScript rest s) hidle ha] at hstep
    exact ⟨_, hstep, rfl, fun a' => lookup_store s.ibuf a a' b⟩
  · have hstep : step s = .next (bufWrite a b (setScript rest s)) := step_of_cons hscript
    rwa [bufWrite_of_le b (s := setScript rest s) ha] at hstep
  · have hstep : step s = .next (bufRead sp a (setScript rest s)) := step_of_cons hscript
    obtain ⟨b, d, hread, hbyte⟩ := exists_bufRead_eq sp a (setScript rest s)
    rw [hread] at hstep
    refine ⟨b, d, hstep, fun ha b' hb' => hbyte b' ?_⟩
    rw [bufValue_of_idle sp (s := setScript rest s) hidle ha, ← hb']
    cases sp <;> rfl

/-- R117: on a busy engine a write to any register, a command word or another, is ignored. -/
theorem hostTurn_regWrite_of_busy (n : BitVec 3) (v : Word) {s : State} (h : s.busy = true) :
    hostTurn (.regWrite n v) s = .next s := by
  simp [hostTurn, issueWord_of_busy_or_err (commandWord v) (.inl h), regWrite_of_busy n v h]

/-- R117: a step of a busy engine that is no reset and not its own turn changes the script, the replies and the count
of free values drawn, at most. -/
theorem step_frame_of_busy {s t : State} (hbusy : s.busy = true) (h : step s = .next t) (hr : ¬s.ResetNext)
    (hturn : ∀ r, ¬s.EngineTurn r) : t = { s with script := t.script, replies := t.replies, draws := t.draws } := by
  obtain ⟨rest, he, -⟩ | ⟨rest, hs, -⟩ | ⟨n, rest, -, rfl⟩ | ⟨n, v, rest, -, -, hw⟩ | ⟨n, v, rest, -, -, rfl⟩ |
    ⟨a, b, rest, -, rfl⟩ | ⟨sp, a, rest, -, rfl⟩ | ⟨early, rest, -, rfl⟩ := step_cases h
  · exact absurd he (hturn rest)
  · exact absurd (congrArg List.head? hs) hr
  · rw [regRead_eq]
    rfl
  · rw [issueWord_of_busy_or_err (s := setScript rest s) _ (.inl hbusy)] at hw
    cases hw
    rfl
  · rw [regWrite_of_busy n v (s := setScript rest s) hbusy]
    rfl
  · rw [bufWrite_of_busy a b (s := setScript rest s) hbusy]
    rfl
  · rw [bufRead_eq]
    rfl
  · rw [pollStatus_eq]
    rfl

/-- R117: a step of a busy engine that is no reset keeps the inputs; its own turn does not write them either. -/
theorem inputs_of_step_of_busy {s t : State} (hbusy : s.busy = true) (h : step s = .next t) (hr : ¬s.ResetNext) :
    t.din = s.din ∧ t.len = s.len ∧ t.ibuf = s.ibuf := by
  by_cases hturn : ∃ r, s.EngineTurn r
  · obtain ⟨r, hturn⟩ := hturn
    obtain ⟨-, -, -, hdin, hlen, hibuf, -⟩ := engineTurn_frame ((step_of_engineTurn hturn).symm.trans h)
    exact ⟨hdin, hlen, hibuf⟩
  · rw [step_frame_of_busy hbusy h hr (not_exists.mp hturn)]
    exact ⟨rfl, rfl, rfl⟩

/-- Settles O14: the writes are ignored past the script's entry, and the two frames are those of a busy engine. -/
theorem writesIgnoredWhileBusy : Obligations.WritesIgnoredWhileBusy := by
  intro s rest hbusy
  refine ⟨fun n v hscript => ?_, fun a b hscript => ?_, fun t => inputs_of_step_of_busy hbusy,
    fun t => step_frame_of_busy hbusy⟩
  · exact (step_of_cons hscript).trans (hostTurn_regWrite_of_busy n v (s := setScript rest s) hbusy)
  · exact (step_of_cons hscript).trans
      (congrArg Host.Outcome.next (bufWrite_of_busy a b (s := setScript rest s) hbusy))

end Sys2Proof.Machine
end

section
/-! PROOFS. Where errors come from (R121, R124, R125). Of the operations a step is made of, only a word written to `CMD`
takes `ERR` from 0 to 1; which code it raises, and why, is what the examination of the word says; then O11 and O9. -/

namespace Sys2Proof.Machine

@[simp] theorem regRead_err (n : BitVec 3) (s : State) : (regRead n s).err = s.err := by
  rw [regRead_eq]

@[simp] theorem bufRead_err (sp : Space) (a : Nat) (s : State) : (bufRead sp a s).err = s.err := by
  rw [bufRead_eq]

@[simp] theorem pollStatus_err (early : Nat) (s : State) : (pollStatus early s).err = s.err := by
  rw [pollStatus_eq]

@[simp] theorem bufWrite_err (a : Nat) (b : Byte) (s : State) : (bufWrite a b s).err = s.err := by
  obtain h | ⟨-, -, h⟩ := bufWrite_cases a b s <;> simp [h]

/-- A data write raises no error; one to `STATUS` may clear it (R114). -/
theorem err_regWrite_of_no_err (n : BitVec 3) (v : Word) {s : State} (herr : s.err = false) :
    (regWrite n v s).err = false := by
  obtain h | ⟨-, -, -, h⟩ | ⟨-, -, h⟩ | ⟨-, -, h⟩ := regWrite_cases n v s <;> simp [h, herr]

theorem hostReg_eq_cmd_iff (n : BitVec 3) : hostReg n = .cmd ↔ n = 0 := by
  revert n
  decide

/-- R121: an error is never raised by a read, a data write, a reset or a completion step, so it comes from a word
written to `CMD`. -/
theorem issueWord_of_step_raises {s t : State} (h : step s = .next t) (herr : s.err = false) (hraised : t.err = true) :
    ∃ v rest, s.script = .regWrite 0 v :: rest ∧ issueWord (commandWord v) (setScript rest s) = .next t := by
  have no_raise : t.err ≠ false := ne_false_of_eq_true hraised
  have herr' (rest : List Txn) : (setScript rest s).err = false := herr
  obtain ⟨rest, -, he⟩ | ⟨rest, -, rfl⟩ | ⟨n, rest, -, rfl⟩ | ⟨n, v, rest, hs, hn, hw⟩ | ⟨n, v, rest, -, -, rfl⟩ |
    ⟨a, b, rest, -, rfl⟩ | ⟨sp, a, rest, -, rfl⟩ | ⟨early, rest, -, rfl⟩ := step_cases h
  · obtain ⟨hkept, -⟩ := engineTurn_frame he
    exact absurd (hkept.trans herr) no_raise
  · exact absurd (resetEngine_err _) no_raise
  · exact absurd ((regRead_err n _).trans (herr' rest)) no_raise
  · obtain rfl := (hostReg_eq_cmd_iff n).mp hn
    exact ⟨v, rest, hs, hw⟩
  · exact absurd (err_regWrite_of_no_err n v (herr' rest)) no_raise
  · exact absurd ((bufWrite_err a b _).trans (herr' rest)) no_raise
  · exact absurd ((bufRead_err sp a _).trans (herr' rest)) no_raise
  · exact absurd ((pollStatus_err early _).trans (herr' rest)) no_raise

/-- R124, R125: the causes of an error raised by a legal command. -/
theorem cause_of_issue_raises {i : Instr} {s : State} (herr : s.err = false) (hraised : (issue i s).err = true) :
    ((issue i s).errcode = 2 ∧ s.ksv = false ∧ needsKey i = true) ∨
    ((issue i s).errcode = 3 ∧ s.cfg.bufBytes < s.len.toNat ∧ needsLength i = true) := by
  obtain ⟨herr', -⟩ | ⟨-, hkey, hv, h⟩ | ⟨-, -, hlen, hb, h⟩ | ⟨-, -, -, h⟩ := issue_cases i s
  · cases herr.symm.trans herr'
  · exact .inl ⟨congrArg State.errcode h, hv, hkey⟩
  · exact .inr ⟨congrArg State.errcode h, hb, hlen⟩
  · cases herr.symm.trans ((congrArg State.err h).symm.trans hraised)

/-- R121, R123: the engine is idle when a written word raises an error, and the word is illegal or a command refused. -/
theorem cause_of_issueWord_raises {c : Byte} {s t : State} (h : issueWord c s = .next t) (herr : s.err = false)
    (hraised : t.err = true) :
    s.busy = false ∧
      ((t.errcode = 1 ∧ ∃ e, decode c = .error e) ∨
       ∃ i, decode c = .ok i ∧
        ((t.errcode = 2 ∧ s.ksv = false ∧ needsKey i = true) ∨
         (t.errcode = 3 ∧ s.cfg.bufBytes < s.len.toNat ∧ needsLength i = true))) := by
  obtain ⟨-, hw⟩ | ⟨⟨hbusy, -⟩, hd, hw⟩ | ⟨i, ⟨hbusy, -⟩, hd, hw⟩ := issueWord_cases c s <;> cases hw.symm.trans h
  · cases herr.symm.trans hraised
  · exact ⟨hbusy, .inl ⟨rfl, hd⟩⟩
  · exact ⟨hbusy, .inr ⟨i, hd, cause_of_issue_raises herr hraised⟩⟩

/-- R47, R48: a word that decodes is its command's own word. -/
theorem encode_of_decode {c : Byte} {i : Instr} (h : decode c = .ok i) : encode i = c := by
  have legal : ¬∃ e, decode c = .error e := by simp [h]
  rw [decode_error_iff, not_or, not_not] at legal
  obtain ⟨hrsv, -⟩ := legal
  calc encode i
    _ = c.extractLsb' 3 5 ++ c.extractLsb' 0 3 := by rw [encode, opcode_of_decode h, hrsv]; rfl
    _ = c := (BitVec.extractLsb'_append_extractLsb'_eq_extractLsb' rfl).trans BitVec.extractLsb'_eq_self

theorem needsKey_iff_mem (i : Instr) : needsKey i = true ↔ i ∈ [Instr.encb, .decb, .encbuf, .decbuf] := by
  cases i <;> decide

theorem needsLength_iff_mem (i : Instr) : needsLength i = true ↔ i ∈ [Instr.encbuf, .decbuf] := by
  cases i <;> decide

/-- Settles O11: the error comes from a word written to `CMD`, whose examination names the cause. -/
theorem errorsComeOnlyFromCommandWrites : Obligations.ErrorsComeOnlyFromCommandWrites := by
  intro s t h herr hraised
  obtain ⟨v, rest, hscript, hw⟩ := issueWord_of_step_raises h herr hraised
  obtain ⟨hbusy, hcause⟩ := cause_of_issueWord_raises (s := setScript rest s) hw herr hraised
  refine ⟨hbusy, v, rest, hscript, ?_⟩
  obtain ⟨hcode, hd⟩ | ⟨i, hd, ⟨hcode, hv, hkey⟩ | ⟨hcode, hb, hlen⟩⟩ := hcause
  · exact .inl ⟨hcode, (decode_commandWord_error_iff v).mp hd⟩
  · exact .inr (.inl ⟨hcode, hv, i, (needsKey_iff_mem i).mp hkey, (encode_of_decode hd).symm⟩)
  · exact .inr (.inr ⟨hcode, hb, i, (needsLength_iff_mem i).mp hlen, (encode_of_decode hd).symm⟩)

/-- Settles O9: the four commands are those that need the schedule and the two those that need the length, so lines 2
and 3 of R108 refuse them, and line 4 accepts at `LEN = BUF_BYTES`. -/
theorem keyAndLengthRefusals : Obligations.KeyAndLengthRefusals := by
  refine fun s hs => ⟨fun i hi hv => ?_, fun i hi hv hb => ?_, fun i _ hv hb => ?_⟩
  · have hkey : needsKey i = true := (needsKey_iff_mem i).mpr (by simpa using hi)
    exact exec_of_ready_of_ksv_false hs hkey hv
  · have hlen : needsLength i = true := (needsLength_iff_mem i).mpr (by simpa using hi)
    exact exec_of_ready_of_beyond hs (fun _ => hv) hlen hb
  · exact exec_of_ready hs (fun _ => hv) fun _ => hb.le

end Sys2Proof.Machine
end

section
/-! PROOFS. The invariant (10_state.md sections 2 to 6): it holds after a reset, and each operation a step is made of
keeps it, so every step does; then O52 and O53. -/

namespace Sys2Proof.Machine

/-- The invariant says nothing of the working registers (R26) and of the model's own fields. -/
theorem State.Inv.of_frame {s : State} (h : s.Inv) (k0w k1w : Word) (l u : Half) (rnd : BitVec 5) (chk : BitVec 32)
    (script : List Txn) (replies : List Reply) (draws : Nat) :
    State.Inv { s with
      k0w := k0w, k1w := k1w, l := l, u := u, rnd := rnd, chk := chk,
      script := script, replies := replies, draws := draws } :=
  ⟨h.ibufWf, h.obufWf, h.ibufWithin, h.obufWithin, h.errcodeZero, h.busyNoErr, h.schedule, h.opcAccepted⟩

theorem State.Inv.setScript {s : State} (h : s.Inv) (rest : List Txn) : (setScript rest s).Inv :=
  h.of_frame _ _ _ _ _ _ rest _ _

/-- R136: nothing is pending, nothing is in progress, there is no schedule, and both buffers are empty. -/
theorem afterReset_inv (cfg : Config) (script : List Txn) (replies : List Reply) (d : Nat) :
    (State.afterReset cfg script replies d).Inv where
  ibufWf := List.Pairwise.nil
  obufWf := List.Pairwise.nil
  ibufWithin := nofun
  obufWithin := nofun
  errcodeZero := by simp
  busyNoErr := by simp
  schedule := by simp
  opcAccepted := by simp

theorem resetEngine_inv (s : State) : (resetEngine s).Inv :=
  afterReset_inv s.cfg s.script s.replies s.draws

theorem State.Inv.regRead {s : State} (h : s.Inv) (n : BitVec 3) : (regRead n s).Inv := by
  rw [regRead_eq]
  exact h.of_frame ..

theorem State.Inv.bufRead {s : State} (h : s.Inv) (sp : Space) (a : Nat) : (bufRead sp a s).Inv := by
  rw [bufRead_eq]
  exact h.of_frame ..

theorem State.Inv.pollStatus {s : State} (h : s.Inv) (early : Nat) : (pollStatus early s).Inv := by
  rw [pollStatus_eq]
  exact h.of_frame ..

/-- R128: `ERR` and `ERRCODE` fall together. -/
theorem State.Inv.clearErr {s : State} (h : s.Inv) : (clearErr s).Inv :=
  ⟨h.ibufWf, h.obufWf, h.ibufWithin, h.obufWithin, iff_of_true rfl rfl, fun _ => rfl, h.schedule, h.opcAccepted⟩

/-- Nothing of the invariant binds `DIN`, and `LEN` only while a command is in progress. -/
theorem State.Inv.inputs_of_idle {s : State} (h : s.Inv) (hidle : s.busy = false) (din : Word) (len : BitVec 32) :
    State.Inv { s with din := din, len := len } :=
  ⟨h.ibufWf, h.obufWf, h.ibufWithin, h.obufWithin, h.errcodeZero, h.busyNoErr, h.schedule,
    fun hbusy => absurd (hidle.symm.trans hbusy) Bool.false_ne_true⟩

theorem State.Inv.regWrite {s : State} (h : s.Inv) (n : BitVec 3) (v : Word) : (regWrite n v s).Inv := by
  obtain hw | ⟨-, -, -, hw⟩ | ⟨hidle, -, hw⟩ | ⟨hidle, -, hw⟩ := regWrite_cases n v s <;> rw [hw]
  · exact h
  · exact h.clearErr
  · exact h.inputs_of_idle hidle v s.len
  · exact h.inputs_of_idle hidle s.din (v.extractLsb' 0 32)

/-- R115, R31: a write that is not ignored lies below the capacity. -/
theorem State.Inv.bufWrite {s : State} (h : s.Inv) (a : Nat) (b : Byte) : (bufWrite a b s).Inv := by
  obtain hw | ⟨-, ha, hw⟩ := bufWrite_cases a b s <;> rw [hw]
  · exact h
  · exact ⟨store_wf h.ibufWf a b, h.obufWf, store_within h.ibufWithin ha b, h.obufWithin, h.errcodeZero, h.busyNoErr,
      h.schedule, h.opcAccepted⟩

theorem errCode_ne_zero (c : ErrCause) : errCode c ≠ 0 := by
  cases c <;> decide

/-- R122: error entry on an idle engine; every cause has a code other than 0. -/
theorem State.Inv.raiseErr_of_idle {s : State} (h : s.Inv) (hidle : s.busy = false) (c : ErrCause) :
    (raiseErr c s).Inv :=
  have not_busy (hbusy : s.busy = true) : False := Bool.false_ne_true (hidle.symm.trans hbusy)
  ⟨h.ibufWf, h.obufWf, h.ibufWithin, h.obufWithin, iff_of_false (errCode_ne_zero c) (Ne.symm Bool.false_ne_true),
    fun hbusy => (not_busy hbusy).elim, h.schedule, fun hbusy => (not_busy hbusy).elim⟩

/-- R108 line 4: acceptance comes after the checks, with no error pending. -/
theorem State.Inv.accept {s : State} (h : s.Inv) (herr : s.err = false) {i : Instr}
    (hkey : needsKey i = true → s.ksv = true) (hlen : needsLength i = true → s.len.toNat ≤ s.cfg.bufBytes) :
    (accept i s).Inv :=
  ⟨h.ibufWf, h.obufWf, h.ibufWithin, h.obufWithin, h.errcodeZero, fun _ => herr, h.schedule,
    fun _ => ⟨i, rfl, hkey, hlen⟩⟩

theorem State.Inv.issue_of_idle {s : State} (h : s.Inv) (hidle : s.busy = false) (i : Instr) : (issue i s).Inv := by
  obtain ⟨-, hi⟩ | ⟨-, -, -, hi⟩ | ⟨-, -, -, -, hi⟩ | ⟨herr, hkey, hlen, hi⟩ := issue_cases i s <;> rw [hi]
  · exact h
  · exact h.raiseErr_of_idle hidle _
  · exact h.raiseErr_of_idle hidle _
  · exact h.accept herr hkey hlen

theorem State.Inv.issueWord {c : Byte} {s t : State} (h : s.Inv) (hw : issueWord c s = .next t) : t.Inv := by
  obtain ⟨-, hc⟩ | ⟨⟨hidle, -⟩, -, hc⟩ | ⟨i, ⟨hidle, -⟩, -, hc⟩ := issueWord_cases c s <;> cases hc.symm.trans hw
  · exact h
  · exact h.raiseErr_of_idle hidle _
  · exact h.issue_of_idle hidle i

/-- R111: after the common end of the completions the engine is idle. -/
theorem State.Inv.finish {s : State} (h : s.Inv) : (finish s).Inv :=
  ⟨h.ibufWf, h.obufWf, h.ibufWithin, h.obufWithin, h.errcodeZero, nofun, h.schedule, nofun⟩

theorem State.Inv.setDout {s : State} (h : s.Inv) (w : Word) : State.Inv { s with dout := w } :=
  ⟨h.ibufWf, h.obufWf, h.ibufWithin, h.obufWithin, h.errcodeZero, h.busyNoErr, h.schedule, h.opcAccepted⟩

/-- R75: `KSV` rises together with the generated schedule. -/
theorem State.Inv.setSchedule {s : State} (h : s.Inv) :
    State.Inv { s with ks := keyScheduleGen s.cfg.sbox, ksv := true } := by
  refine ⟨h.ibufWf, h.obufWf, h.ibufWithin, h.obufWithin, h.errcodeZero, h.busyNoErr, fun _ => rfl, fun hbusy => ?_⟩
  obtain ⟨i, hopc, -, hlen⟩ := h.opcAccepted hbusy
  exact ⟨i, hopc, fun _ => rfl, hlen⟩

/-- R101: what a buffer command stores is as long as what it read, so it stays within the capacity. -/
theorem State.Inv.storeOutput {s : State} (h : s.Inv) (out : List Byte) (hout : out.length ≤ s.cfg.bufBytes)
    (draws : Nat) : State.Inv { s with obuf := s.obuf.storeBytes 0 out, draws := draws } :=
  ⟨h.ibufWf, storeBytes_wf h.obufWf 0 out, h.ibufWithin,
    storeBytes_within h.obufWithin ((Nat.zero_add _).trans_le hout), h.errcodeZero, h.busyNoErr, h.schedule,
    h.opcAccepted⟩

@[simp] theorem length_inputBytes (s : State) : (inputBytes s).length = s.len.toNat :=
  memRead_length ..

theorem State.Inv.complete {i : Instr} {s t : State} (h : s.Inv) (hc : complete i s = .next t) : t.Inv := by
  obtain ⟨-, rfl⟩ | ⟨-, -, rfl⟩ | ⟨-, -, rfl⟩ | ⟨-, rfl⟩ | ⟨-, rfl⟩ | ⟨d, -, hlen, rfl⟩ := complete_cases hc
  · exact h.finish
  · exact h.finish
  · exact h.setSchedule.finish
  · exact (h.setDout _).finish
  · exact (h.setDout _).finish
  · exact (h.storeOutput _ (by rwa [length_transform, length_inputBytes]) _).finish

theorem State.Inv.engineTurn {s t : State} (h : s.Inv) (he : engineTurn s = .next t) : t.Inv := by
  obtain ⟨-, rfl⟩ | ⟨i, -, hc⟩ := engineTurn_cases he
  · exact h
  · exact h.complete hc

theorem State.Inv.step {s t : State} (h : s.Inv) (hstep : step s = .next t) : t.Inv := by
  obtain ⟨rest, -, he⟩ | ⟨rest, -, rfl⟩ | ⟨n, rest, -, rfl⟩ | ⟨n, v, rest, -, -, hw⟩ | ⟨n, v, rest, -, -, rfl⟩ |
    ⟨a, b, rest, -, rfl⟩ | ⟨sp, a, rest, -, rfl⟩ | ⟨early, rest, -, rfl⟩ := step_cases hstep
  · exact (h.setScript rest).engineTurn he
  · exact resetEngine_inv _
  · exact (h.setScript rest).regRead n
  · exact (h.setScript rest).issueWord hw
  · exact (h.setScript rest).regWrite n v
  · exact (h.setScript rest).bufWrite a b
  · exact (h.setScript rest).bufRead sp a
  · exact (h.setScript rest).pollStatus early

/-- Settles O52: power-up is a reset. -/
theorem resetMeetsTheInvariant : Obligations.ResetMeetsTheInvariant :=
  afterReset_inv Config.chip [] [] 0

/-- Settles O53: every form a step can have keeps the invariant. -/
theorem stepKeepsTheInvariant : Obligations.StepKeepsTheInvariant :=
  fun _ _ h hstep => h.step hstep

end Sys2Proof.Machine
end

section
/-! PROOFS. What a step can change, said once (`StepEffect`): a transaction of the host that is not ignored changes the
elements it names, and the engine's turn those of its command. From it who writes each element (10_state.md) and that
errors do not nest (R129); then O50 and O10. -/

namespace Sys2Proof.Machine

theorem hostReg_eq_status_iff (n : BitVec 3) : hostReg n = .status ↔ n = 1 := by
  revert n
  decide

theorem hostReg_eq_din_iff (n : BitVec 3) : hostReg n = .din ↔ n = 2 := by
  revert n
  decide

theorem hostReg_eq_len_iff (n : BitVec 3) : hostReg n = .len ↔ n = 4 := by
  revert n
  decide

/-- The effects a step from `s` to `t` can have, each with the elements it may change. -/
inductive StepEffect (s t : State) : Prop
  /-- Reads, polls and ignored writes: nothing but the model's own fields. -/
  | quiet (ht : t = { s with script := t.script, replies := t.replies, draws := t.draws })
  /-- `Reset` (R136). -/
  | reset (hreset : s.ResetNext)
  /-- The engine's turn carries out the command in progress (R111). -/
  | turn (rest : List Txn) (i : Instr) (hturn : s.EngineTurn rest) (hp : s.InProgress i)
      (hc : complete i (setScript rest s) = .next t)
  /-- A word written to `CMD` is examined (R108). -/
  | examined (v : Word) (rest : List Txn) (hscript : s.script = .regWrite 0 v :: rest) (hs : s.Ready)
      (ht : t = { s with script := rest, err := t.err, errcode := t.errcode, busy := t.busy, opc := t.opc })
  /-- A write to `STATUS` clears the error (R114). -/
  | cleared (v : Word) (rest : List Txn) (hscript : s.script = .regWrite 1 v :: rest) (hidle : s.busy = false)
      (hv : v.getLsbD 2 = true) (ht : t = { s with script := rest, err := false, errcode := 0 })
  /-- A write to `DIN` (R18). -/
  | din (v : Word) (rest : List Txn) (hscript : s.script = .regWrite 2 v :: rest) (hidle : s.busy = false)
      (ht : t = { s with script := rest, din := v })
  /-- A write to `LEN` (R20). -/
  | len (v : Word) (rest : List Txn) (hscript : s.script = .regWrite 4 v :: rest) (hidle : s.busy = false)
      (ht : t = { s with script := rest, len := v.extractLsb' 0 32 })
  /-- A write to `IBUF` (R115). -/
  | stored (a : Nat) (b : Byte) (rest : List Txn) (hscript : s.script = .bufWrite a b :: rest)
      (hidle : s.busy = false) (ht : t = { s with script := rest, ibuf := s.ibuf.store a b })

/-- R108: issuing writes the flags and `OPC`, and nothing else. -/
theorem issue_frame (i : Instr) (s : State) :
    issue i s = { s with
      err := (issue i s).err, errcode := (issue i s).errcode, busy := (issue i s).busy, opc := (issue i s).opc } := by
  obtain ⟨-, h⟩ | ⟨-, -, -, h⟩ | ⟨-, -, -, -, h⟩ | ⟨-, -, -, h⟩ := issue_cases i s <;> rw [h] <;> rfl

theorem stepEffect_of_regWrite {s : State} {n : BitVec 3} {v : Word} {rest : List Txn}
    (hscript : s.script = .regWrite n v :: rest) : StepEffect s (regWrite n v (setScript rest s)) := by
  obtain hw | ⟨hidle, hn, hv, hw⟩ | ⟨hidle, hn, hw⟩ | ⟨hidle, hn, hw⟩ := regWrite_cases n v (setScript rest s) <;>
    rw [hw]
  · exact .quiet rfl
  · obtain rfl := (hostReg_eq_status_iff n).mp hn
    exact .cleared v rest hscript hidle hv rfl
  · obtain rfl := (hostReg_eq_din_iff n).mp hn
    exact .din v rest hscript hidle rfl
  · obtain rfl := (hostReg_eq_len_iff n).mp hn
    exact .len v rest hscript hidle rfl

theorem stepEffect_of_issueWord {s t : State} {v : Word} {rest : List Txn} (hscript : s.script = .regWrite 0 v :: rest)
    (hw : issueWord (commandWord v) (setScript rest s) = .next t) : StepEffect s t := by
  obtain ⟨-, hc⟩ | ⟨hs, -, hc⟩ | ⟨i, hs, -, hc⟩ := issueWord_cases (commandWord v) (setScript rest s) <;>
    cases hc.symm.trans hw
  · exact .quiet rfl
  · exact .examined v rest hscript hs rfl
  · exact .examined v rest hscript hs (issue_frame i (setScript rest s))

/-- Every step has one of the effects. -/
theorem stepEffect_of_step {s t : State} (h : step s = .next t) : StepEffect s t := by
  obtain ⟨rest, hturn, he⟩ | ⟨rest, hs, -⟩ | ⟨n, rest, -, rfl⟩ | ⟨n, v, rest, hs, hn, hw⟩ |
    ⟨n, v, rest, hs, -, rfl⟩ | ⟨a, b, rest, hs, rfl⟩ | ⟨sp, a, rest, -, rfl⟩ | ⟨early, rest, -, rfl⟩ := step_cases h
  · obtain ⟨-, rfl⟩ | ⟨i, hp, hc⟩ := engineTurn_cases he
    · exact .quiet rfl
    · exact .turn rest i hturn hp hc
  · exact .reset (congrArg List.head? hs)
  · exact .quiet (by rw [regRead_eq]; rfl)
  · obtain rfl := (hostReg_eq_cmd_iff n).mp hn
    exact stepEffect_of_issueWord hs hw
  · exact stepEffect_of_regWrite hs
  · obtain hw | ⟨hidle, -, hw⟩ := bufWrite_cases a b (setScript rest s) <;> rw [hw]
    · exact .quiet rfl
    · exact .stored a b rest hs hidle rfl
  · exact .quiet (by rw [bufRead_eq]; rfl)
  · exact .quiet (by rw [pollStatus_eq]; rfl)

/-- What a completion leaves alone (R111, R120). -/
theorem complete_frame {i : Instr} {s t : State} (h : complete i s = .next t) :
    t.err = s.err ∧ t.errcode = s.errcode ∧ t.din = s.din ∧ t.len = s.len ∧ t.ibuf = s.ibuf ∧ t.opc = s.opc := by
  obtain ⟨-, rfl⟩ | ⟨-, -, rfl⟩ | ⟨-, -, rfl⟩ | ⟨-, rfl⟩ | ⟨-, rfl⟩ | ⟨d, -, -, rfl⟩ := complete_cases h <;> simp

/-- R19: of the completions only those of the block commands write `DOUT`. -/
theorem dout_of_complete {i : Instr} {s t : State} (h : complete i s = .next t) :
    t.dout = s.dout ∨ i = .encb ∨ i = .decb := by
  obtain ⟨-, rfl⟩ | ⟨-, -, rfl⟩ | ⟨-, -, rfl⟩ | ⟨hi, -⟩ | ⟨hi, -⟩ | ⟨d, -, -, rfl⟩ := complete_cases h
  case inr.inr.inr.inl => exact .inr (.inl hi)
  case inr.inr.inr.inr.inl => exact .inr (.inr hi)
  all_goals exact .inl (by simp)

/-- R23: of the completions only those of the buffer commands write `OBUF`. -/
theorem obuf_of_complete {i : Instr} {s t : State} (h : complete i s = .next t) :
    t.obuf = s.obuf ∨ i = .encbuf ∨ i = .decbuf := by
  obtain ⟨-, rfl⟩ | ⟨-, -, rfl⟩ | ⟨-, -, rfl⟩ | ⟨-, rfl⟩ | ⟨-, rfl⟩ | ⟨d, hi, -⟩ := complete_cases h
  case inr.inr.inr.inr.inr => exact .inr (hi.imp And.left And.left)
  all_goals exact .inl (by simp)

/-- Settles O50: each effect but the engine's turn changes the elements it names, on the transaction it names; of the
engine's turn the completion says which command writes what. -/
theorem eachElementHasItsWriters : Obligations.EachElementHasItsWriters := by
  intro s t h hr
  cases stepEffect_of_step h with
  | quiet ht => rw [ht]; simp
  | reset hreset => exact absurd hreset hr
  | turn rest i hturn hp hc =>
    obtain ⟨herr, hcode, hdin, hlen, hibuf, hopc⟩ := complete_frame hc
    have turn : ∃ rest, s.EngineTurn rest := ⟨rest, hturn⟩
    refine ⟨absurd hdin, absurd hlen, absurd hibuf, fun hd => ⟨turn, ?_⟩, fun ho => ⟨turn, ?_⟩,
      fun hk => ⟨turn, ?_⟩, fun he => ?_, fun _ => by rwa [if_pos hp.1], absurd hopc⟩
    · obtain hkept | rfl | rfl := dout_of_complete hc
      · exact absurd hkept hd
      · exact .inl hp
      · exact .inr hp
    · obtain hkept | rfl | rfl := obuf_of_complete hc
      · exact absurd hkept ho
      · exact .inl hp
      · exact .inr hp
    · obtain ⟨hks, hksv⟩ | ⟨rfl, hv⟩ := ks_ksv_of_complete hc
      · exact hk.elim (absurd hks) (absurd hksv)
      · exact ⟨hp, hv⟩
    · exact he.elim (absurd herr) (absurd hcode)
  | examined v rest hscript hs ht => rw [ht]; simp [hscript, hs.1]
  | cleared v rest hscript hidle hv ht => rw [ht]; simp [hscript, hidle]
  | din v rest hscript hidle ht => rw [ht]; simp [hscript, hidle]
  | len v rest hscript hidle ht => rw [ht]; simp [hscript, hidle]
  | stored a b rest hscript hidle ht => rw [ht]; simp [hscript, hidle]

/-- R121, R114: a step that moves the error is an examination, which needs `ERR = 0`, or a `STATUS` write that clears
it, and both need an idle engine. -/
theorem err_of_step {s t : State} (h : step s = .next t) (hr : ¬s.ResetNext) :
    (t.err = s.err ∧ t.errcode = s.errcode) ∨ s.Ready ∨
      (s.busy = false ∧ ∃ v rest, s.script = .regWrite 1 v :: rest ∧ v.getLsbD 2 = true) := by
  cases stepEffect_of_step h with
  | quiet ht => rw [ht]; exact .inl ⟨rfl, rfl⟩
  | reset hreset => exact absurd hreset hr
  | turn rest i hturn hp hc =>
    obtain ⟨herr, hcode, -⟩ := complete_frame hc
    exact .inl ⟨herr, hcode⟩
  | examined v rest hscript hs ht => exact .inr (.inl hs)
  | cleared v rest hscript hidle hv ht => exact .inr (.inr ⟨hidle, v, rest, hscript, hv⟩)
  | din v rest hscript hidle ht => rw [ht]; exact .inl ⟨rfl, rfl⟩
  | len v rest hscript hidle ht => rw [ht]; exact .inl ⟨rfl, rfl⟩
  | stored a b rest hscript hidle ht => rw [ht]; exact .inl ⟨rfl, rfl⟩

/-- Settles O10: what moves the error needs an idle engine, and either no error or a `STATUS` write with bit 2. -/
theorem errorsDoNotNest : Obligations.ErrorsDoNotNest := by
  intro s t h hr
  have contradiction {b : Bool} (htrue : b = true) (hfalse : b = false) : False :=
    Bool.false_ne_true (hfalse.symm.trans htrue)
  obtain ⟨herr, hcode⟩ | ⟨hidle, hno⟩ | ⟨hidle, v, rest, hscript, hv⟩ := err_of_step h hr
  · exact ⟨fun he _ => ⟨herr.trans he, hcode⟩, fun _ => ⟨herr, hcode⟩⟩
  · exact ⟨fun he _ => (contradiction he hno).elim, fun hbusy => (contradiction hbusy hidle).elim⟩
  · exact ⟨fun _ hbit => (contradiction hv (hbit v rest hscript)).elim, fun hbusy => (contradiction hbusy hidle).elim⟩

end Sys2Proof.Machine
end

section
/-! PROOFS. Under the invariant no step stops (R120): the command in progress has passed its checks, so its completion
answers; then O54. -/

namespace Sys2Proof.Machine

/-- R111: a completion answers a next state, for a buffer command when its bytes exist. -/
theorem exists_complete_eq_next {i : Instr} {s : State}
    (hlen : needsLength i = true → s.len.toNat ≤ s.cfg.bufBytes) : ∃ t, complete i s = .next t := by
  cases i with
  | nop | kgen | encb | decb => exact ⟨_, rfl⟩
  | encbuf | decbuf => exact ⟨_, if_pos (hlen rfl)⟩

theorem completeBuffer_of_beyond (d : Direction) {s : State} (hb : s.cfg.bufBytes < s.len.toNat) :
    completeBuffer d s = .fault .beyondBuffer :=
  if_neg (Nat.not_le.mpr hb)

theorem exists_engineTurn_eq_next {s : State} (h : s.Inv) : ∃ t, engineTurn s = .next t := by
  cases hb : s.busy with
  | false => exact ⟨s, engineTurn_of_idle hb⟩
  | true =>
    obtain ⟨i, hopc, -, hlen⟩ := h.opcAccepted hb
    rw [engineTurn_of_inProgress ⟨hb, hopc⟩]
    exact exists_complete_eq_next hlen

theorem exists_issueWord_eq_next (c : Byte) (s : State) : ∃ t, issueWord c s = .next t := by
  obtain ⟨-, h⟩ | ⟨-, -, h⟩ | ⟨i, -, -, h⟩ := issueWord_cases c s <;> exact ⟨_, h⟩

/-- R106: a transaction that gives the engine no turn answers a next state. -/
theorem exists_hostTurn_eq_next {x : Txn} (hx : x ≠ .idle) (s : State) : ∃ t, hostTurn x s = .next t := by
  cases x with
  | idle => exact absurd rfl hx
  | regWrite n v =>
    simp only [hostTurn]
    split
    · exact exists_issueWord_eq_next (commandWord v) s
    · exact ⟨_, rfl⟩
  | reset | regRead | bufWrite | bufRead | wait => exact ⟨_, rfl⟩

theorem exists_step_eq_next {s : State} (h : s.Inv) : ∃ t, step s = .next t := by
  have turn {rest : List Txn} (hturn : s.EngineTurn rest) : ∃ t, step s = .next t := by
    rw [step_of_engineTurn hturn]
    exact exists_engineTurn_eq_next (h.setScript rest)
  cases hscript : s.script with
  | nil => exact turn (.inr ⟨hscript, rfl⟩)
  | cons x rest =>
    by_cases hx : x = .idle
    · exact turn (.inl (hx ▸ hscript))
    · rw [step_of_cons hscript]
      exact exists_hostTurn_eq_next hx _

/-- R125: the length check of an accepted buffer command has been passed. -/
theorem State.Inv.len_le_of_inProgress {s : State} (h : s.Inv) {i : Instr} (hp : s.InProgress i)
    (hi : needsLength i = true) : s.len.toNat ≤ s.cfg.bufBytes := by
  obtain ⟨j, hopc, -, hlen⟩ := h.opcAccepted hp.1
  obtain rfl : j = i := opcode_injective (hopc.symm.trans hp.2)
  exact hlen hi

/-- R111: acceptance latches none of the two reserved opcodes. -/
theorem State.Inv.opc_ne_reserved {s : State} (h : s.Inv) (hbusy : s.busy = true) : ¬(s.opc = 6 ∨ s.opc = 7) := by
  obtain ⟨i, hopc, -⟩ := h.opcAccepted hbusy
  rw [← decodeOp_eq_none_iff, hopc, decodeOp_opcode]
  exact Option.some_ne_none i

theorem engineTurn_of_reserved {s : State} (hbusy : s.busy = true) (hopc : s.opc = 6 ∨ s.opc = 7) :
    engineTurn s = .fault .reservedOpcode := by
  simp [engineTurn, hbusy, (decodeOp_eq_none_iff s.opc).mpr hopc]

/-- Settles O54: the invariant gives every step an answer, a completion leaves the error alone, and the two faults need
a command that the checks of R108 would have refused. -/
theorem nothingFailsUnderTheInvariant : Obligations.NothingFailsUnderTheInvariant := by
  refine ⟨fun _ => exists_step_eq_next, fun s t rest hturn h => ?_, fun s i hi hp hb => ⟨?_, fun h => ?_⟩,
    fun s rest hturn hbusy hopc => ⟨?_, fun h => h.opc_ne_reserved hbusy hopc⟩⟩
  · obtain ⟨herr, hcode, -⟩ := engineTurn_frame ((step_of_engineTurn hturn).symm.trans h)
    exact ⟨herr, hcode⟩
  · rw [exec_of_inProgress hp]
    obtain rfl | rfl := hi <;> exact completeBuffer_of_beyond _ hb
  · have hlen : needsLength i = true := (needsLength_iff_mem i).mpr (by simpa using hi)
    exact Nat.not_le.mpr hb (h.len_le_of_inProgress hp hlen)
  · rw [step_of_engineTurn hturn]
    exact engineTurn_of_reserved (s := setScript rest s) hbusy hopc

end Sys2Proof.Machine
end

section
/-! PROOFS. What the host sees (R106): every transaction of the host reads and writes the hidden elements not at all, or
writes them with values of its own, so two states that differ only there stay so; then O51. -/

namespace Sys2Proof.Machine

/-- `s` with the hidden elements of `h`. -/
def withHiddenOf (h s : State) : State :=
  { s with ks := h.ks, opc := h.opc, k0w := h.k0w, k1w := h.k1w, l := h.l, u := h.u, rnd := h.rnd, chk := h.chk }

theorem sameToHost_withHiddenOf (h s : State) : s.SameToHost (withHiddenOf h s) := rfl

theorem sameToHost_iff_exists (s s' : State) : s.SameToHost s' ↔ ∃ h, s' = withHiddenOf h s :=
  ⟨fun hs => ⟨s', hs⟩, fun ⟨h, hs⟩ => hs ▸ sameToHost_withHiddenOf h s⟩

theorem regRead_withHiddenOf (n : BitVec 3) (h s : State) :
    regRead n (withHiddenOf h s) = withHiddenOf h (regRead n s) := by
  unfold regRead
  cases hostReg n with
  | dout => cases hb : s.busy <;> simp [withHiddenOf, hb, addReply, countDraw]
  | cmd | status | din | len | reserved => rfl

theorem bufRead_withHiddenOf (sp : Space) (a : Nat) (h s : State) :
    bufRead sp a (withHiddenOf h s) = withHiddenOf h (bufRead sp a s) := by
  have value : bufValue sp a (withHiddenOf h s) = bufValue sp a s := by cases sp <;> rfl
  unfold bufRead
  rw [value]
  cases bufValue sp a s <;> rfl

theorem pollStatus_withHiddenOf (early : Nat) (h s : State) :
    pollStatus early (withHiddenOf h s) = withHiddenOf h (pollStatus early s) := by
  have status : statusByte (withHiddenOf h s) = statusByte s := rfl
  unfold pollStatus
  rw [regRead_withHiddenOf, status]
  split <;> rfl

theorem regWrite_withHiddenOf (n : BitVec 3) (v : Word) (h s : State) :
    regWrite n v (withHiddenOf h s) = withHiddenOf h (regWrite n v s) := by
  unfold regWrite
  cases hb : s.busy
  · cases hostReg n <;> cases v.getLsbD 2 <;> simp [withHiddenOf, hb, clearErr]
  · simp [withHiddenOf, hb]

theorem bufWrite_withHiddenOf (a : Nat) (b : Byte) (h s : State) :
    bufWrite a b (withHiddenOf h s) = withHiddenOf h (bufWrite a b s) := by
  unfold bufWrite
  cases hb : s.busy
  · by_cases ha : a < s.cfg.bufBytes <;> simp [withHiddenOf, hb, ha]
  · simp [withHiddenOf, hb]

/-- R136: a reset draws new values for the hidden elements. -/
theorem sameToHost_resetEngine (h s : State) : (resetEngine s).SameToHost (resetEngine (withHiddenOf h s)) := rfl

/-- R108: the checks read none of the hidden elements; acceptance writes `OPC`. -/
theorem sameToHost_issue (i : Instr) (h s : State) : (issue i s).SameToHost (issue i (withHiddenOf h s)) := by
  unfold issue
  cases herr : s.err
  · cases hk : needsKey i && !s.ksv
    · cases hl : needsLength i && decide (s.cfg.bufBytes < s.len.toNat) <;>
        simp [withHiddenOf, herr, hk, hl, State.SameToHost, raiseErr, accept]
    · simp [withHiddenOf, herr, hk, State.SameToHost, raiseErr]
  · simp [withHiddenOf, herr, State.SameToHost]

/-- A command word is treated alike: what is looked at before it is issued is not hidden. -/
theorem sameToHost_issueWord (c : Byte) (h s : State) :
    ∃ t t', issueWord c s = .next t ∧ issueWord c (withHiddenOf h s) = .next t' ∧ t.SameToHost t' := by
  by_cases hignored : s.busy = true ∨ s.err = true
  · exact ⟨s, withHiddenOf h s, issueWord_of_busy_or_err c hignored,
      issueWord_of_busy_or_err (s := withHiddenOf h s) c hignored, rfl⟩
  · have hs : s.Ready := by simpa using hignored
    cases hd : decode c with
    | error e =>
      exact ⟨_, _, issueWord_of_illegal hs ⟨e, hd⟩, issueWord_of_illegal (s := withHiddenOf h s) hs ⟨e, hd⟩, rfl⟩
    | ok i =>
      refine ⟨issue i s, issue i (withHiddenOf h s), ?_, ?_, sameToHost_issue i h s⟩
      · exact (issueWord_of_legal hs hd).trans (exec_of_idle hs.1)
      · exact (issueWord_of_legal (s := withHiddenOf h s) hs hd).trans (exec_of_idle hs.1)

/-- R106: a transaction of the host keeps the agreement. -/
theorem sameToHost_hostTurn {x : Txn} (hx : x ≠ .idle) (h s : State) :
    ∃ t t', hostTurn x s = .next t ∧ hostTurn x (withHiddenOf h s) = .next t' ∧ t.SameToHost t' := by
  have alike (f : State → State) (hf : f (withHiddenOf h s) = withHiddenOf h (f s)) :
      (f s).SameToHost (f (withHiddenOf h s)) := by
    rw [hf]
    exact sameToHost_withHiddenOf h (f s)
  cases x with
  | idle => exact absurd rfl hx
  | reset => exact ⟨_, _, rfl, rfl, sameToHost_resetEngine h s⟩
  | regRead n => exact ⟨_, _, rfl, rfl, alike _ (regRead_withHiddenOf n h s)⟩
  | regWrite n v =>
    simp only [hostTurn]
    split
    · exact sameToHost_issueWord (commandWord v) h s
    · exact ⟨_, _, rfl, rfl, alike _ (regWrite_withHiddenOf n v h s)⟩
  | bufWrite a b => exact ⟨_, _, rfl, rfl, alike _ (bufWrite_withHiddenOf a b h s)⟩
  | bufRead sp a => exact ⟨_, _, rfl, rfl, alike _ (bufRead_withHiddenOf sp a h s)⟩
  | wait early => exact ⟨_, _, rfl, rfl, alike _ (pollStatus_withHiddenOf early h s)⟩

/-- Settles O51: the script is not hidden, so both states do the same transaction, which keeps the agreement; the
replies are part of it. -/
theorem hiddenStateIsHidden : Obligations.HiddenStateIsHidden := by
  intro s s' hsame hturn
  obtain ⟨h, rfl⟩ := (sameToHost_iff_exists s s').mp hsame
  cases hscript : s.script with
  | nil => exact absurd (.inr ⟨hscript, rfl⟩) (hturn [])
  | cons x rest =>
    have hx : x ≠ .idle := fun hx => hturn rest (.inl (hx ▸ hscript))
    have hscript' : (withHiddenOf h s).script = x :: rest := hscript
    obtain ⟨t, t', ht, ht', hsame'⟩ := sameToHost_hostTurn hx h (setScript rest s)
    refine ⟨t, t', (step_of_cons hscript).trans ht, (step_of_cons hscript').trans ht', hsame', ?_⟩
    rw [hsame']

end Sys2Proof.Machine
end

section
/-! PROOFS. The loop `wait` (R54) and the progress of a busy engine (R146): one poll; the polls of a busy engine up to
and with the engine's turn; the one poll of an idle engine. A busy engine meets its turn within the script or right
after it; then O59, O55 and O58. -/

namespace Sys2Proof.Machine

/-- What a read of `STATUS` returns (R107). -/
def statusWord (s : State) : Word := (statusByte s).setWidth 64

/-- R54: bit 0 of the value read is `BUSY`. -/
theorem getLsbD_zero_statusWord (s : State) : (statusWord s).getLsbD 0 = s.busy := by
  rw [statusWord, BitVec.getLsbD_setWidth, statusByte_busy]
  rfl

theorem step_wait_of_idle {s : State} {early : Nat} {rest : List Txn} (hidle : s.busy = false)
    (hscript : s.script = .wait early :: rest) :
    step s = .next { s with script := rest, replies := s.replies ++ [.reg 1 (statusWord s)] } := by
  obtain ⟨-, hp⟩ | ⟨hbusy, -⟩ := pollStatus_cases early (setScript rest s)
  · exact (step_of_cons hscript).trans (congrArg Host.Outcome.next hp)
  · exact absurd (hidle.symm.trans hbusy) Bool.false_ne_true

theorem step_wait_of_busy {s : State} {early : Nat} {rest : List Txn} (hbusy : s.busy = true)
    (hscript : s.script = .wait early :: rest) :
    step s = .next { s with
      script := waitAgain early rest, replies := s.replies ++ [.reg 1 (statusWord s)] } := by
  obtain ⟨hidle, -⟩ | ⟨-, hp⟩ := pollStatus_cases early (setScript rest s)
  · exact absurd (hidle.symm.trans hbusy) Bool.false_ne_true
  · exact (step_of_cons hscript).trans (congrArg Host.Outcome.next hp)

/-- Settles O59: the poll of an idle engine ends the loop and that of a busy one goes on with it, and bit 0 of the value
read says which of the two it is. -/
theorem waitPollsOnePollAStep : Obligations.WaitPollsOnePollAStep := by
  intro s early rest hscript v
  have hbit : v.getLsbD 0 = s.busy := getLsbD_zero_statusWord s
  rw [hbit]
  by_cases hbusy : s.busy = true
  · exact ⟨waitAgain early rest, step_wait_of_busy hbusy hscript, fun hidle => by simp [hidle] at hbusy,
      fun _ => by cases early <;> rfl⟩
  · exact ⟨rest, step_wait_of_idle (by simpa using hbusy) hscript, fun _ => rfl, fun h => absurd h hbusy⟩

/-- R111: the engine's turn ends the command in progress, and the script and the replies are the host's own. -/
theorem exists_step_eq_next_of_engineTurn {s : State} {rest : List Txn} (h : s.Inv) (hturn : s.EngineTurn rest) :
    ∃ t, step s = .next t ∧ t.Inv ∧ t.busy = false ∧ t.script = rest ∧ t.replies = s.replies := by
  obtain ⟨t, ht⟩ := exists_step_eq_next h
  obtain ⟨-, -, -, -, -, -, -, hscript, hreplies, hbusy⟩ := engineTurn_frame ((step_of_engineTurn hturn).symm.trans ht)
  exact ⟨t, ht, h.step ht, hbusy, hscript, hreplies⟩

/-- R54, R146: on a busy engine `wait` polls until it has given the engine its turn; all these polls read 1. -/
theorem exists_run_wait_of_busy {early : Nat} {rest : List Txn} {s : State} (h : s.Inv) (hbusy : s.busy = true)
    (hscript : s.script = .wait early :: rest) :
    ∃ (t : State) (polls : List Word), Sys2Proof.core.run (early + 2) s = .next t ∧ t.busy = false ∧
      t.script = .wait 0 :: rest ∧ t.replies = s.replies ++ polls.map (.reg 1) ∧ ∀ v ∈ polls, v.getLsbD 0 = true := by
  have hread := (getLsbD_zero_statusWord s).trans hbusy
  induction early generalizing s with
  | zero =>
    have hpoll := step_wait_of_busy hbusy hscript
    obtain ⟨t, ht, -, htbusy, htscript, htreplies⟩ := exists_step_eq_next_of_engineTurn (h.step hpoll) (.inl rfl)
    refine ⟨t, [statusWord s], ?_, htbusy, htscript, htreplies, List.forall_mem_singleton.mpr hread⟩
    rw [core_run_of_step hpoll, core_run_of_step ht]
    rfl
  | succ early ih =>
    have hpoll := step_wait_of_busy hbusy hscript
    obtain ⟨t, polls, hrun, htbusy, htscript, htreplies, hpolls⟩ := ih (h.step hpoll) hbusy rfl hread
    refine ⟨t, statusWord s :: polls, ?_, htbusy, htscript, ?_, List.forall_mem_cons.mpr ⟨hread, hpolls⟩⟩
    · rw [core_run_of_step hpoll]
      exact hrun
    · simp [htreplies]

/-- The transactions of the host on a busy engine that are no `Reset`, no turn of the engine and no poll move the script
on and leave it busy. -/
theorem exists_step_eq_next_of_access {s : State} {x : Txn} {rest : List Txn} (hbusy : s.busy = true)
    (hscript : s.script = x :: rest) (hreset : x ≠ .reset) (hidle : x ≠ .idle) (hwait : ∀ early, x ≠ .wait early) :
    ∃ t, step s = .next t ∧ t.busy = true ∧ t.script = rest := by
  rw [step_of_cons hscript]
  cases x with
  | reset => exact absurd rfl hreset
  | idle => exact absurd rfl hidle
  | wait early => exact absurd rfl (hwait early)
  | regRead n => exact ⟨_, rfl, by rw [regRead_eq]; exact hbusy, by rw [regRead_eq]; rfl⟩
  | bufRead sp a => exact ⟨_, rfl, by rw [bufRead_eq]; exact hbusy, by rw [bufRead_eq]; rfl⟩
  | regWrite n v =>
    exact ⟨setScript rest s, hostTurn_regWrite_of_busy n v (s := setScript rest s) hbusy, hbusy, rfl⟩
  | bufWrite a b =>
    exact ⟨setScript rest s, congrArg Host.Outcome.next (bufWrite_of_busy a b (s := setScript rest s) hbusy),
      hbusy, rfl⟩

/-- R146: within `n` steps from `s` there is a state with `BUSY = 0`. -/
def BusyFallsWithin (n : Nat) (s : State) : Prop :=
  ∃ (k : Nat) (t : State), k ≤ n ∧ Sys2Proof.core.run k s = .next t ∧ t.busy = false

theorem busyFallsWithin_succ_of_step {n : Nat} {s t : State} (h : step s = .next t) (ht : BusyFallsWithin n t) :
    BusyFallsWithin (n + 1) s := by
  obtain ⟨k, t', hk, hrun, hbusy⟩ := ht
  exact ⟨k + 1, t', Nat.succ_le_succ hk, (core_run_of_step h k).trans hrun, hbusy⟩

theorem busyFallsWithin_of_step_idle {s t : State} (n : Nat) (h : step s = .next t) (hidle : t.busy = false) :
    BusyFallsWithin (n + 1) s :=
  busyFallsWithin_succ_of_step h ⟨0, t, Nat.zero_le n, rfl, hidle⟩

theorem scriptSteps_cons (x : Txn) (rest : List Txn) : scriptSteps (x :: rest) = txnSteps x + scriptSteps rest := by
  simp [scriptSteps]

theorem busyFallsWithin_of_engineTurn {s : State} {rest : List Txn} (n : Nat) (h : s.Inv) (hturn : s.EngineTurn rest) :
    BusyFallsWithin (n + 1) s := by
  obtain ⟨t, ht, -, hidle, -⟩ := exists_step_eq_next_of_engineTurn h hturn
  exact busyFallsWithin_of_step_idle n ht hidle

/-- R146: a busy engine has become idle within one step more than its script can take. -/
theorem busyFallsWithin_scriptSteps {s : State} (h : s.Inv) (hbusy : s.busy = true) :
    BusyFallsWithin (scriptSteps s.script + 1) s := by
  induction hscript : s.script generalizing s with
  | nil => exact busyFallsWithin_of_engineTurn _ h (.inr ⟨hscript, rfl⟩)
  | cons x rest ih =>
    cases x with
    | idle => exact busyFallsWithin_of_engineTurn _ h (.inl hscript)
    | reset => exact busyFallsWithin_of_step_idle _ (step_of_cons hscript) (resetEngine_busy _)
    | wait early =>
      obtain ⟨t, polls, hrun, hidle, -⟩ := exists_run_wait_of_busy h hbusy hscript
      exact ⟨early + 2, t, by rw [scriptSteps_cons, txnSteps]; omega, hrun, hidle⟩
    | regRead | regWrite | bufWrite | bufRead =>
      obtain ⟨t, ht, htbusy, htscript⟩ := exists_step_eq_next_of_access hbusy hscript nofun nofun nofun
      rw [scriptSteps_cons, Nat.add_comm (txnSteps _)]
      exact busyFallsWithin_succ_of_step ht (ih (h.step ht) htbusy htscript)

/-- Settles O55: the turn ends the command, a step that is neither a turn nor a reset changes only the model's own
fields, and every script of a busy engine comes to a turn or a reset, or ends, which is a turn. -/
theorem acceptedCommandsComplete : Obligations.AcceptedCommandsComplete := by
  refine fun s h hbusy => ⟨fun rest hturn => ?_, fun hreset hturn => ?_, busyFallsWithin_scriptSteps h hbusy⟩
  · obtain ⟨t, ht, -, hidle, -⟩ := exists_step_eq_next_of_engineTurn h hturn
    exact ⟨t, ht, hidle⟩
  · obtain ⟨t, ht⟩ := exists_step_eq_next h
    refine ⟨t, ht, ?_⟩
    rw [step_frame_of_busy hbusy ht hreset hturn]
    exact ⟨hbusy, rfl⟩

/-- Runs compose. -/
theorem run_add (M : Host.Core) {j : Nat} {s t : M.State} (h : M.run j s = .next t) (k : Nat) :
    M.run (j + k) s = M.run k t := by
  induction j generalizing s with
  | zero =>
    cases h
    rw [Nat.zero_add]
  | succ j ih =>
    cases hs : M.step s with
    | next u =>
      rw [run_succ_of_next M hs] at h
      rw [Nat.succ_add, run_succ_of_next M hs, ih h]
    | fault | refused => simp [Host.Core.run, hs] at h

/-- R54: `wait` polls until the value read has bit 0 equal to 0. -/
theorem exists_run_wait {early : Nat} {rest : List Txn} {s : State} (h : s.Inv)
    (hscript : s.script = .wait early :: rest) :
    ∃ (k : Nat) (t : State) (polls : List Word) (last : Word), k ≤ early + 3 ∧ Sys2Proof.core.run k s = .next t ∧
      t.script = rest ∧ t.busy = false ∧ t.replies = s.replies ++ (polls ++ [last]).map (.reg 1) ∧
      (∀ v ∈ polls, v.getLsbD 0 = true) ∧ last.getLsbD 0 = false ∧ (s.busy = false → polls = [] ∧ k = 1) := by
  by_cases hbusy : s.busy = true
  · obtain ⟨t, polls, hrun, hidle, htscript, hreplies, hpolls⟩ := exists_run_wait_of_busy h hbusy hscript
    have hrun' := (run_add Sys2Proof.core hrun 1).trans (core_run_of_step (step_wait_of_idle hidle htscript) 0)
    exact ⟨early + 3, _, polls, statusWord t, le_rfl, hrun', rfl, hidle, by simp [hreplies], hpolls,
      (getLsbD_zero_statusWord t).trans hidle, fun hidle' => by simp [hidle'] at hbusy⟩
  · have hidle : s.busy = false := by simpa using hbusy
    exact ⟨1, _, [], statusWord s, by omega, core_run_of_step (step_wait_of_idle hidle hscript) 0, rfl, hidle, rfl,
      nofun, (getLsbD_zero_statusWord s).trans hidle, fun _ => ⟨rfl, rfl⟩⟩

theorem getElem?_scriptFill (a j : Nat) (bs : List Byte) :
    (scriptFill a bs)[j]? = bs[j]?.map (.bufWrite (a + j)) := by
  induction bs generalizing a j with
  | nil => rfl
  | cons b bs ih =>
    cases j with
    | zero => rfl
    | succ j => rw [scriptFill, List.getElem?_cons_succ, ih, List.getElem?_cons_succ, Nat.add_right_comm a 1 j]; rfl

theorem getElem?_scriptDump (sp : Space) (a n j : Nat) :
    (scriptDump sp a n)[j]? = if j < n then some (.bufRead sp (a + j)) else none := by
  rw [scriptDump, List.getElem?_map]
  split
  · next hj => rw [List.getElem?_range hj]; rfl
  · next hj => rw [List.getElem?_eq_none (by simpa using hj)]; rfl

/-- Settles O58: `wait` by the run of its polls, `fill` and `dump` entry by entry, the others by definition. -/
theorem pseudoInstructionsExpand : Obligations.PseudoInstructionsExpand :=
  ⟨fun _ => rfl, by decide, fun _ _ _ h hscript => exists_run_wait h hscript, rfl, getElem?_scriptFill,
    getElem?_scriptDump⟩

end Sys2Proof.Machine
end

section
/-! PROOFS. Encoding, and which command a step runs (R47, R48, R108, R111): a written word that decodes, the opcode that
the engine holds, and a word placed; then O2, O4, O5 and O6. -/

namespace Sys2Proof.Machine

theorem decode_encode (i : Instr) : decode (encode i) = .ok i := by
  cases i <;> rfl

/-- Settles O2: the six words are evaluated; the other way round is the decoder's own lemma. -/
theorem encodeAndDecodeAgree : Obligations.EncodeAndDecodeAgree :=
  ⟨decode_encode, fun _ _ => encode_of_decode⟩

/-- Settles O4: the step is the examination of the word, which for a legal one is its command. -/
theorem examinedWordStepRunsItsCommand : Obligations.ExaminedWordStepRunsItsCommand :=
  fun s _ rest _ hs hscript hd => (step_of_cons hscript).trans (issueWord_of_legal (s := setScript rest s) hs hd)

/-- Settles O5: the step is the engine's turn past the script's entry, which is the completion of the command in
progress, or nothing. -/
theorem engineTurnRunsLatchedCommand : Obligations.EngineTurnRunsLatchedCommand := by
  refine fun s rest hturn => ⟨fun i hp => ?_, fun hidle => ?_⟩
  · have hp' : (setScript rest s).InProgress i := hp
    calc step s
      _ = engineTurn (setScript rest s) := step_of_engineTurn hturn
      _ = complete i (setScript rest s) := engineTurn_of_inProgress hp'
      _ = exec i (setScript rest s) := (exec_of_inProgress hp').symm
  · exact (step_of_engineTurn hturn).trans (engineTurn_of_idle (s := setScript rest s) hidle)

theorem commandWord_setWidth (c : Byte) : commandWord (c.setWidth 64) = c :=
  BitVec.eq_of_getLsbD_eq fun i hi => by
    simp only [commandWord, BitVec.getLsbD_extractLsb', BitVec.getLsbD_setWidth, Nat.zero_add, hi, decide_true,
      Bool.true_and, show i < 64 by omega]

/-- A word placed by the model is what the next step examines (log entry 7). -/
theorem step_placeCommand (c : Byte) (s : State) :
    step (placeCommand c s) = issueWord c { s with busy := false, err := false, errcode := 0 } :=
  calc step (placeCommand c s)
    _ = issueWord (commandWord (c.setWidth 64)) (setScript s.script (placeCommand c s)) :=
      step_of_cons (x := .regWrite 0 (c.setWidth 64)) rfl
    _ = issueWord c { s with busy := false, err := false, errcode := 0 } := by rw [commandWord_setWidth]; rfl

theorem decode_of_decodeTableWord {nbits w : Nat} {i : Instr} (h : decodeTableWord nbits w = some i) :
    decode (BitVec.ofNat 8 (w % 2 ^ nbits)) = .ok i := by
  unfold decodeTableWord at h
  split at h
  · next j hj => rw [hj, Option.some.inj h]
  · cases h

/-- Settles O6: the word placed is examined on an engine made ready, where a legal word is its command. -/
theorem placedWordRunsNext : Obligations.PlacedWordRunsNext :=
  fun s _ _ _ hd => (step_placeCommand _ s).trans (issueWord_of_legal ⟨rfl, rfl⟩ (decode_of_decodeTableWord hd))

end Sys2Proof.Machine
end

section
/-! PROOFS. The host's register and buffer reads, register writes and reset (R37, R107, R116, R117, R136): what each
read returns, register by register, and what each write does; then O13, O15, O17 and O18. -/

namespace Sys2Proof.Machine

theorem hostReg_eq_reserved {n : BitVec 3} (hn : 5 ≤ n) : hostReg n = .reserved := by
  revert n
  decide

theorem regNumber_cases (n : BitVec 3) : n = 0 ∨ n = 1 ∨ n = 2 ∨ n = 3 ∨ n = 4 ∨ 5 ≤ n := by
  revert n
  decide

/-- R107: what a register read returns, where the register's value is what it returns (`DOUT` on an idle engine). -/
theorem regRead_eq_addReply {n : BitVec 3} {v : Word} {s : State} (hcmd : n = 0 → v = 0)
    (hstatus : n = 1 → v = statusWord s) (hdin : n = 2 → v = s.din) (hdout : n = 3 → s.busy = false ∧ v = s.dout)
    (hlen : n = 4 → v = s.len.setWidth 64) (hreserved : 5 ≤ n → v = 0) : regRead n s = addReply (.reg n v) s := by
  obtain rfl | rfl | rfl | rfl | rfl | hn := regNumber_cases n
  · rw [hcmd rfl]; rfl
  · rw [hstatus rfl]; rfl
  · rw [hdin rfl]; rfl
  · obtain ⟨hidle, rfl⟩ := hdout rfl
    simp [regRead, hostReg, hidle]
  · rw [hlen rfl]; rfl
  · simp [regRead, hostReg_eq_reserved hn, hreserved hn]

/-- R107, R117: a write to a register that no host can write is ignored. -/
theorem regWrite_of_readOnly {n : BitVec 3} (hn : n = 3 ∨ 5 ≤ n) (v : Word) (s : State) : regWrite n v s = s := by
  have hreg : hostReg n = .dout ∨ hostReg n = .reserved := hn.imp (congrArg hostReg) hostReg_eq_reserved
  unfold regWrite
  obtain h | h := hreg <;> simp [h]

theorem step_regWrite_of_ne_zero {s : State} {n : BitVec 3} {v : Word} {rest : List Txn} (hn : n ≠ 0)
    (hscript : s.script = .regWrite n v :: rest) : step s = .next (regWrite n v (setScript rest s)) :=
  (step_of_cons hscript).trans (if_neg (mt (hostReg_eq_cmd_iff n).mp hn))

/-- Settles O13: the reads return the registers' values, and of the writes `CMD` is an examination, `STATUS`, `DIN` and
`LEN` do their own, and the others are ignored. -/
theorem registerTransactionsWhenIdle : Obligations.RegisterTransactionsWhenIdle := by
  refine fun s rest hidle => ⟨fun n v hscript hcmd hstatus hdin hdout hlen hreserved => ?_, fun n v hscript => ?_⟩
  · rw [step_of_cons hscript]
    exact congrArg Host.Outcome.next (regRead_eq_addReply (s := setScript rest s) hcmd hstatus hdin
      (fun hn => ⟨hidle, hdout hn⟩) hlen hreserved)
  · have written (hn : n ≠ 0) := step_regWrite_of_ne_zero hn hscript
    have readOnly (hn : n = 3 ∨ 5 ≤ n) (h0 : n ≠ 0) : step s = .next (setScript rest s) := by
      rw [written h0, regWrite_of_readOnly hn]
    refine ⟨fun hn => ?_, fun hn => ?_, fun hn => ?_, fun hn => ?_, fun hn => ?_, fun hn => ?_⟩
    · subst hn
      exact step_of_cons hscript
    · subst hn
      rw [written (by decide), regWrite_status_of_idle v (s := setScript rest s) hidle]
      rfl
    · subst hn
      rw [written (by decide)]
      simp [regWrite, hostReg, hidle, setScript]
    · exact readOnly (.inl hn) (by subst hn; decide)
    · subst hn
      rw [written (by decide)]
      simp [regWrite, hostReg, hidle, setScript]
    · exact readOnly (.inr hn) (by rintro rfl; revert hn; decide)

/-- R116: a read of `DOUT` on a busy engine returns some value. -/
theorem regRead_dout_of_busy {s : State} (hbusy : s.busy = true) :
    regRead 3 s = addReply (.reg 3 (Config.freeBits 64 s.draws)) (countDraw s) := by
  simp [regRead, hostReg, hbusy]

/-- R116: `IBUF` reads on a busy engine as on an idle one. -/
theorem bufValue_ibuf {a : Nat} {s : State} (ha : a < s.cfg.bufBytes) : bufValue .ibuf a s = s.ibuf.lookup a := by
  simp [bufValue, Nat.not_le.mpr ha, spaceOf]

/-- Settles O15: every register but `DOUT` reads as when idle, `DOUT` reads a free value, and a buffer read returns some
byte, of `IBUF` the one written. -/
theorem readsWhileBusy : Obligations.ReadsWhileBusy := by
  intro s rest hbusy
  refine ⟨fun n v hscript hn hcmd hstatus hdin hlen hreserved => ?_, fun hscript => ?_, fun a hscript => ?_,
    fun a hscript => ?_⟩
  · rw [step_of_cons hscript]
    exact congrArg Host.Outcome.next (regRead_eq_addReply (s := setScript rest s) hcmd hstatus hdin
      (fun h => absurd h hn) hlen hreserved)
  · rw [step_of_cons hscript]
    exact ⟨_, _, congrArg Host.Outcome.next (regRead_dout_of_busy (s := setScript rest s) hbusy)⟩
  · obtain ⟨b, d, hread, -⟩ := exists_bufRead_eq .obuf a (setScript rest s)
    rw [step_of_cons hscript]
    exact ⟨b, d, congrArg Host.Outcome.next hread⟩
  · obtain ⟨b, d, hread, hbyte⟩ := exists_bufRead_eq .ibuf a (setScript rest s)
    rw [step_of_cons hscript]
    exact ⟨b, d, congrArg Host.Outcome.next hread,
      fun ha b' hb' => hbyte b' ((bufValue_ibuf (s := setScript rest s) ha).trans hb')⟩

theorem exists_regRead_replies (n : BitVec 3) (s : State) : ∃ r, (regRead n s).replies = s.replies ++ [r] := by
  unfold regRead
  cases hostReg n with
  | dout => cases hb : s.busy <;> simp
  | cmd | status | din | len | reserved => exact ⟨_, rfl⟩

/-- Settles O17: both kinds of read change the model's own fields alone, and append one reply. -/
theorem readsHaveNoSideEffect : Obligations.ReadsHaveNoSideEffect := by
  rintro s rest (⟨n, hscript⟩ | ⟨sp, a, hscript⟩)
  · exact ⟨_, step_of_cons hscript, regRead_eq n (setScript rest s), exists_regRead_replies n (setScript rest s)⟩
  · obtain ⟨b, d, hread, -⟩ := exists_bufRead_eq sp a (setScript rest s)
    exact ⟨_, step_of_cons hscript, bufRead_eq sp a (setScript rest s), .byte sp a b, by rw [hread]; rfl⟩

/-- Settles O18: a reset leaves the values of the reset table, whatever was before, and power-up is one. -/
theorem resetGivesTheResetValues : Obligations.ResetGivesTheResetValues := by
  refine ⟨fun s rest hscript => ⟨_, step_of_cons hscript, ?_⟩, ?_⟩
  · simp [Memory.lookup]
  · simp [State.reset, Memory.lookup]

end Sys2Proof.Machine
end

section
/-! PROOFS. What the spec derives about the tables (R60, R63), the rotations (R81) and one iteration of the key schedule
(R68, R70, R72, R77); then O28, O30, O22, O24 and O25. -/

namespace Sys2Proof.Machine

theorem sDec_eq_iff (T : Sbox) (m n : Nibble) : sDec T m = n ↔ sEnc T n = m :=
  ⟨fun h => h ▸ sEnc_sDec T m, fun h => h ▸ sDec_sEnc T n⟩

/-- R63: substitutions undo each other when their tables do, nibble by nibble. -/
theorem sub32_sub32_of_leftInverse {f g : Nibble → Nibble} (h : Function.LeftInverse g f) (v : Half) :
    sub32 g (sub32 f v) = v :=
  half_eq_of_nibbles fun j => by rw [extractLsb'_sub32, extractLsb'_sub32, h]

@[simp] theorem sub32_sDec_sEnc (T : Sbox) (v : Half) : sub32 (sDec T) (sub32 (sEnc T) v) = v :=
  sub32_sub32_of_leftInverse (sDec_sEnc T) v

@[simp] theorem sub32_sEnc_sDec (T : Sbox) (v : Half) : sub32 (sEnc T) (sub32 (sDec T) v) = v :=
  sub32_sub32_of_leftInverse (sEnc_sDec T) v

/-- Settles O28: both laws from the two tables being inverse to each other. -/
theorem substitutionInverseLaw : Obligations.SubstitutionInverseLaw :=
  fun T v => ⟨sDec_eq_iff T, sub32_sDec_sEnc T v, sub32_sEnc_sDec T v⟩

theorem rol32_ror32 (v : Half) {n : Nat} (hn : n < 32) : rol32 (ror32 v n) n = v :=
  BitVec.eq_of_getLsbD_eq fun i hi => by rw [getLsbD_rol32 _ hn hi, getLsbD_ror32_moved v hn hi]

theorem rol32_bijective {n : Nat} (hn : n < 32) : Function.Bijective fun v : Half => rol32 v n :=
  Function.bijective_iff_has_inverse.mpr
    ⟨fun v => ror32 v n, fun v => ror32_rol32 v hn, fun v => rol32_ror32 v hn⟩

theorem ror32_bijective {n : Nat} (hn : n < 32) : Function.Bijective fun v : Half => ror32 v n :=
  Function.bijective_iff_has_inverse.mpr
    ⟨fun v => rol32 v n, fun v => rol32_ror32 v hn, fun v => ror32_rol32 v hn⟩

theorem ror32_zero (n : Nat) : ror32 0 n = 0 := by
  simp [ror32]

theorem rol32_xor (a b : Half) {n : Nat} (hn : n < 32) : rol32 (a ^^^ b) n = rol32 a n ^^^ rol32 b n :=
  BitVec.eq_of_getLsbD_eq fun i hi => by simp only [BitVec.getLsbD_xor, getLsbD_rol32 _ hn hi]

theorem ror32_xor (a b : Half) {n : Nat} (hn : n < 32) : ror32 (a ^^^ b) n = ror32 a n ^^^ ror32 b n :=
  BitVec.eq_of_getLsbD_eq fun i hi => by simp only [BitVec.getLsbD_xor, getLsbD_ror32 _ hn hi]

theorem getLsbD_halfAllOnes {i : Nat} (hi : i < 32) : (0xFFFFFFFF : Half).getLsbD i = true := by
  rw [show (0xFFFFFFFF : Half) = BitVec.allOnes 32 by decide, BitVec.getLsbD_allOnes]
  exact decide_eq_true hi

theorem rol32_allOnes {n : Nat} (hn : n < 32) : rol32 0xFFFFFFFF n = 0xFFFFFFFF :=
  BitVec.eq_of_getLsbD_eq fun i hi => by
    rw [getLsbD_rol32 _ hn hi, getLsbD_halfAllOnes hi, getLsbD_halfAllOnes (Nat.mod_lt _ (by decide))]

theorem ror32_allOnes {n : Nat} (hn : n < 32) : ror32 0xFFFFFFFF n = 0xFFFFFFFF :=
  BitVec.eq_of_getLsbD_eq fun i hi => by
    rw [getLsbD_ror32 _ hn hi, getLsbD_halfAllOnes hi, getLsbD_halfAllOnes (Nat.mod_lt _ (by decide))]

/-- Settles O30: the two rotations are inverse to each other, and move the bits of each operand alike. -/
theorem rotationsAreLinearBijections : Obligations.RotationsAreLinearBijections := by
  intro n _ hn
  have hlt : n < 32 := by omega
  exact ⟨rol32_bijective hlt, ror32_bijective hlt, rol32_zero n, ror32_zero n, rol32_allOnes hlt, ror32_allOnes hlt,
    fun a b => ⟨rol32_xor a b hlt, ror32_xor a b hlt⟩⟩

@[simp] theorem getElem_keyScheduleGen (T : Sbox) (r : Fin 25) : (keyScheduleGen T)[r] = roundKey T r := by
  simp [keyScheduleGen]

/-- Settles O22: `KS[i]` is the recursion on `i`, one iteration a step. -/
theorem scheduleFollowsTheLoop : Obligations.ScheduleFollowsTheLoop := by
  refine fun T => ⟨getElem_keyScheduleGen T 0, fun i => ?_⟩
  rw [getElem_keyScheduleGen, getElem_keyScheduleGen]
  rfl

/-- Step 1 as bits of the pair: the low 51 bits of a value move up by 13, and its top 13 become the low 13 of the
other. -/
theorem getLsbD_rotatedWord (hi lo : Word) {i : Nat} (h : i < 64) :
    (hi <<< 13 ||| lo >>> 51).getLsbD i = if i < 13 then lo.getLsbD (51 + i) else hi.getLsbD (i - 13) := by
  rw [BitVec.getLsbD_or, BitVec.getLsbD_shiftLeft, BitVec.getLsbD_ushiftRight]
  split
  · next h13 => simp [h13]
  · next h13 => simp [h13, h, show 64 ≤ 51 + i by omega]

/-- R68: the operands of each OR have no bit in common. -/
theorem shiftLeft_and_ushiftRight (hi lo : Word) : (hi <<< 13) &&& (lo >>> 51) = 0 :=
  BitVec.eq_of_getLsbD_eq fun i h => by
    rw [BitVec.getLsbD_and, BitVec.getLsbD_shiftLeft, BitVec.getLsbD_ushiftRight]
    by_cases h13 : i < 13
    · simp [h13]
    · simp [show 64 ≤ 51 + i by omega]

/-- R68: step 1 is the rotation of `K1W ++ K0W`. -/
theorem rotatePair_append (p : RoundKey) :
    ((rotatePair p).k1 ++ (rotatePair p).k0 : BitVec 128) = (p.k1 ++ p.k0 : BitVec 128).rotateLeft 13 := by
  have pair (x y : Word) (i : Nat) :
      (x ++ y : BitVec 128).getLsbD i = if i < 64 then y.getLsbD i else x.getLsbD (i - 64) := BitVec.getLsbD_append
  refine BitVec.eq_of_getLsbD_eq fun i hi => ?_
  rw [BitVec.getLsbD_rotateLeft_of_le (by decide)]
  simp only [pair, rotatePair, hi, decide_true, Bool.true_and, Bool.cond_eq_ite, decide_eq_true_eq]
  obtain h | h | h | h : i < 13 ∨ (13 ≤ i ∧ i < 64) ∨ (64 ≤ i ∧ i < 77) ∨ 77 ≤ i := by omega
  · have hbit := getLsbD_rotatedWord p.k0 p.k1 (i := i) (by omega)
    rw [if_pos (by omega), hbit, if_pos h, if_pos h, if_neg (by omega), show 64 + 64 - 13 + i - 64 = 51 + i by omega]
  · have hbit := getLsbD_rotatedWord p.k0 p.k1 (i := i) (by omega)
    rw [if_pos (by omega), hbit, if_neg (by omega), if_neg (by omega), if_pos (by omega)]
  · have hbit := getLsbD_rotatedWord p.k1 p.k0 (i := i - 64) (by omega)
    rw [if_neg (by omega), hbit, if_pos (by omega), if_neg (by omega), if_pos (by omega),
      show 51 + (i - 64) = i - 13 by omega]
  · have hbit := getLsbD_rotatedWord p.k1 p.k0 (i := i - 64) (by omega)
    rw [if_neg (by omega), hbit, if_neg (by omega), if_neg (by omega), if_neg (by omega),
      show i - 64 - 13 = i - 13 - 64 by omega]

/-- R70: step 3 is the XOR with the index at bits 63:59. -/
theorem injectConstant_k1_eq_xor (i : Nat) (p : RoundKey) :
    (injectConstant (BitVec.ofNat 5 i) p).k1 = p.k1 ^^^ (BitVec.ofNat 64 i <<< 59) := by
  refine BitVec.eq_of_getLsbD_eq fun j hj => ?_
  simp only [injectConstant, getLsbD_constantAndLow, BitVec.getLsbD_xor, BitVec.getLsbD_shiftLeft,
    BitVec.getLsbD_extractLsb', BitVec.getLsbD_ofNat]
  by_cases h : j < 59
  · simp [h]
  · simp [h, hj, show j - 59 < 5 by omega, show j - 59 < 64 by omega, show 59 + (j - 59) = j by omega]

/-- R69: step 2 keeps the bits above the low byte. -/
theorem getLsbD_substLowByte_of_le (T : Sbox) (p : RoundKey) {j : Nat} (hj : 8 ≤ j) :
    (substLowByte T p).k1.getLsbD j = p.k1.getLsbD j := by
  rw [substLowByte, getLsbD_highAndByte, if_neg (by omega), BitVec.getLsbD_extractLsb',
    show 8 + (j - 8) = j by omega]
  by_cases h : j < 64
  · simp [show j - 8 < 56 by omega]
  · simp [show 64 ≤ j by omega]

/-- R70: the bits that step 3 changes are bits 50:46 before step 1. -/
theorem extractLsb'_substLowByte_rotatePair (T : Sbox) (p : RoundKey) :
    (substLowByte T (rotatePair p)).k1.extractLsb' 59 5 = p.k1.extractLsb' 46 5 := by
  refine BitVec.eq_of_getLsbD_eq fun j hj => ?_
  rw [BitVec.getLsbD_extractLsb', BitVec.getLsbD_extractLsb', getLsbD_substLowByte_of_le T _ (by omega), rotatePair,
    getLsbD_rotatedWord _ _ (by omega), if_neg (by omega), show 59 + j - 13 = 46 + j by omega]

/-- Settles O24: bit by bit. -/
theorem scheduleRotatesAndXors : Obligations.ScheduleRotatesAndXors :=
  ⟨fun p => ⟨rotatePair_append p, shiftLeft_and_ushiftRight p.k1 p.k0, shiftLeft_and_ushiftRight p.k0 p.k1⟩,
    fun i p _ => injectConstant_k1_eq_xor i p, extractLsb'_substLowByte_rotatePair⟩

/-- R69, corner case: step 2 of a pair whose low byte is 0 reads `S_ENC[0]` only. -/
theorem substLowByte_of_low_zero (T : Sbox) {p : RoundKey} (h : p.k1.extractLsb' 0 8 = 0) :
    substLowByte T p = { p with k1 := p.k1.extractLsb' 8 56 ++ (0x11 * (sEnc T 0).setWidth 8 : Byte) } := by
  rw [substLowByte, h, sub8_zero]

/-- R77 (a). -/
theorem roundKey_zero (T : Sbox) : roundKey T 0 = ⟨0, 0x11 * (sEnc T 0).setWidth 64⟩ := by
  have hlow : (rotatePair seed).k1.extractLsb' 0 8 = 0 := by decide
  rw [roundKey, scheduleStep, substLowByte_of_low_zero T hlow]
  generalize sEnc T 0 = n
  revert n
  decide

/-- R77 (b): the low byte that step 2 reads is 0, because step 1 has moved `KS[0]` up by 13. -/
theorem roundKey_one (T : Sbox) :
    roundKey T 1 =
      ⟨0, 0x0800000000000000 + 0x11 * (sEnc T 0).setWidth 64 * 0x2000 + 0x11 * (sEnc T 0).setWidth 64⟩ := by
  have hlow : (rotatePair (roundKey T 0)).k1.extractLsb' 0 8 = 0 := by
    rw [roundKey_zero]
    generalize sEnc T 0 = n
    revert n
    decide
  rw [roundKey, scheduleStep, substLowByte_of_low_zero T hlow, roundKey_zero]
  generalize sEnc T 0 = n
  revert n
  decide

/-- Settles O25: both keys depend on `S_ENC[0]` alone. -/
theorem firstTwoRoundKeys : Obligations.FirstTwoRoundKeys :=
  fun T => ⟨(getElem_keyScheduleGen T 0).trans (roundKey_zero T), (getElem_keyScheduleGen T 1).trans (roundKey_one T)⟩

end Sys2Proof.Machine
end

section
/-! PROOFS. The inverse laws of the cipher (R84, R86 to R88): each round undoes the other, so the rounds of one
direction taken in reverse order undo those of the other; then O32, O33, O35, O36 and O39. -/

namespace Sys2Proof.Machine

theorem xor_xor_xor_cancel (a b c : Half) : a ^^^ b ^^^ c ^^^ b ^^^ c = a := by
  rw [BitVec.xor_assoc (a ^^^ b ^^^ c) b c, BitVec.xor_assoc a b c, BitVec.xor_assoc, BitVec.xor_self, BitVec.xor_zero]

/-- R84, R86: `lower` is recovered from `upper`, and then the operand of the substitution. -/
@[simp] theorem decRound_encRound (T : Sbox) (k : RoundKey) (x : Halves) : decRound T k (encRound T k x) = x := by
  simp only [decRound, encRound, xor_xor_xor_cancel, sub32_sDec_sEnc]

/-- R86: the other way round. -/
@[simp] theorem encRound_decRound (T : Sbox) (k : RoundKey) (x : Halves) : encRound T k (decRound T k x) = x := by
  simp only [decRound, encRound, sub32_sEnc_sDec, xor_xor_xor_cancel]

theorem encRound_bijective (T : Sbox) (k : RoundKey) : Function.Bijective (encRound T k) :=
  Function.bijective_iff_has_inverse.mpr ⟨decRound T k, decRound_encRound T k, encRound_decRound T k⟩

theorem decRound_bijective (T : Sbox) (k : RoundKey) : Function.Bijective (decRound T k) :=
  Function.bijective_iff_has_inverse.mpr ⟨encRound T k, encRound_decRound T k, decRound_encRound T k⟩

/-- R84: a round does not read the `k0` of its key. -/
theorem decRound_eq_of_k0 (T : Sbox) (k0 k0' k1 : Word) (x : Halves) :
    decRound T ⟨k0, k1⟩ x = decRound T ⟨k0', k1⟩ x := rfl

/-- Settles O32: the steps by definition, the inverse law from R82's steps solved backwards, the worked example by
evaluation. -/
theorem decryptionRoundFollowsItsSteps : Obligations.DecryptionRoundFollowsItsSteps :=
  ⟨fun _ _ _ _ => rfl, decRound_encRound, fun k0 => (decRound_eq_of_k0 tableEx k0 0 _ _).trans (by decide +kernel)⟩

/-- Settles O33: the two inverse laws, which make both rounds bijections. -/
theorem roundsAreInverse : Obligations.RoundsAreInverse := fun T k =>
  ⟨decRound_encRound T k, encRound_decRound T k, encRound_bijective T k, decRound_bijective T k⟩

/-- Steps undone one by one, the last first. -/
theorem foldl_reverse_foldl {ι α : Type} {f g : α → ι → α} (h : ∀ x i, g (f x i) i = x) (l : List ι) (x : α) :
    l.reverse.foldl g (l.foldl f x) = x := by
  induction l generalizing x with
  | nil => rfl
  | cons i l ih => rw [List.foldl_cons, List.reverse_cons, List.foldl_append, ih, List.foldl_cons, List.foldl_nil, h]

/-- R87. -/
@[simp] theorem decryptBlock_encryptBlock (T : Sbox) (ks : Vector RoundKey 25) (w : Word) :
    decryptBlock T ks (encryptBlock T ks w) = w := by
  rw [decryptBlock, encryptBlock, splitWord_joinHalves, foldl_reverse_foldl fun x r => decRound_encRound T ks[r] x,
    joinHalves_splitWord]

/-- R87: the other way round, where the rounds run upward last. -/
@[simp] theorem encryptBlock_decryptBlock (T : Sbox) (ks : Vector RoundKey 25) (w : Word) :
    encryptBlock T ks (decryptBlock T ks w) = w := by
  have undone := foldl_reverse_foldl (f := fun x r => decRound T ks[r] x) (g := fun x r => encRound T ks[r] x)
    (fun x r => encRound_decRound T ks[r] x) rounds.reverse (splitWord w)
  rw [List.reverse_reverse] at undone
  rw [encryptBlock, decryptBlock, splitWord_joinHalves, undone, joinHalves_splitWord]

/-- Settles O35: the two inverse laws, which make both ciphers bijections. -/
theorem blockRoundTrip : Obligations.BlockRoundTrip := fun T ks =>
  ⟨decryptBlock_encryptBlock T ks, encryptBlock_decryptBlock T ks,
    Function.bijective_iff_has_inverse.mpr
      ⟨decryptBlock T ks, decryptBlock_encryptBlock T ks, encryptBlock_decryptBlock T ks⟩,
    Function.bijective_iff_has_inverse.mpr
      ⟨encryptBlock T ks, encryptBlock_decryptBlock T ks, decryptBlock_encryptBlock T ks⟩⟩

/-- R88. -/
theorem encRound_congr_k1 (T : Sbox) {k k' : RoundKey} (h : k.k1 = k'.k1) : encRound T k = encRound T k' := by
  simp only [funext_iff, encRound, keyLow, keyHigh, h, implies_true]

theorem decRound_congr_k1 (T : Sbox) {k k' : RoundKey} (h : k.k1 = k'.k1) : decRound T k = decRound T k' := by
  simp only [funext_iff, decRound, keyLow, keyHigh, h, implies_true]

/-- Settles O36: round by round the two schedules give the same function. -/
theorem onlyTheUpperKeyIsRead : Obligations.OnlyTheUpperKeyIsRead := by
  intro T ks ks' h w
  have enc : (fun (x : Halves) (r : Fin 25) => encRound T ks[r] x) = fun x r => encRound T ks'[r] x :=
    funext₂ fun x r => congrFun (encRound_congr_k1 T (h r)) x
  have dec : (fun (x : Halves) (r : Fin 25) => decRound T ks[r] x) = fun x r => decRound T ks'[r] x :=
    funext₂ fun x r => congrFun (decRound_congr_k1 T (h r)) x
  exact ⟨by rw [encryptBlock, encryptBlock, enc], by rw [decryptBlock, decryptBlock, dec]⟩

/-- Settles O39: `DOUT` of the second command is the decryption of the encryption. -/
theorem decbUndoesEncb : Obligations.DecbUndoesEncb := by
  intro s t s' hp h hp' hcfg hks hdin
  cases (exec_encb_of_inProgress hp).symm.trans h
  refine ⟨_, exec_decb_of_inProgress hp', ?_⟩
  rw [finish_dout] at hdin ⊢
  rw [hcfg, hks, hdin, decryptBlock_encryptBlock]

end Sys2Proof.Machine
end

section
/-! PROOFS. The buffer round trip (R103) and the order of the chunks (R41). The direction that undoes a block undoes a
chunk and hence a buffer; and storing a chunk leaves at each of its addresses the byte of the output, whatever was
stored before; then O44 and O49. -/

namespace Sys2Proof.Machine

theorem chunkOp_chunkOp {T : Sbox} {ks : Vector RoundKey 25} {d d' : Direction}
    (h : Function.LeftInverse (blockOp T ks d') (blockOp T ks d)) (b : Vector Byte 8) :
    chunkOp T ks d' (chunkOp T ks d b) = b := by
  rw [chunkOp, chunkOp, le64dec_le64enc, h, le64enc_le64dec]

theorem transform_transform {T : Sbox} {ks : Vector RoundKey 25} {d d' : Direction}
    (h : Function.LeftInverse (blockOp T ks d') (blockOp T ks d)) (bytes : List Byte) :
    transform T ks d' (transform T ks d bytes) = bytes := by
  induction hn : bytes.length using Nat.strong_induction_on generalizing bytes with
  | _ n ih =>
    obtain hshort | ⟨chunk, rest, rfl⟩ := length_lt_or_eq_chunk_append bytes
    · rw [transform_of_length_lt T ks d hshort, transform_of_length_lt T ks d' hshort]
    · have hrest : rest.length < n := by rw [← hn, List.length_append, Vector.length_toList]; omega
      rw [transform_chunk_append, transform_chunk_append, chunkOp_chunkOp h, ih rest.length hrest rest rfl]

/-- Settles O44: in either order the second direction undoes the blocks of the first. -/
theorem bufferRoundTrip : Obligations.BufferRoundTrip := fun T ks bytes =>
  ⟨transform_transform (d := .encrypt) (d' := .decrypt) (decryptBlock_encryptBlock T ks) bytes,
    transform_transform (d := .decrypt) (d' := .encrypt) (encryptBlock_decryptBlock T ks) bytes⟩

/-- R41: chunk `i` of `out`, stored at its place. -/
def storeChunk (out : List Byte) (m : Memory) (i : Nat) : Memory := m.storeBytes (8 * i) ((out.drop (8 * i)).take 8)

theorem lookup_storeChunk (out : List Byte) (m : Memory) (i a : Nat) :
    (storeChunk out m i).lookup a = if a / 8 = i ∧ a < out.length then out[a]? else m.lookup a := by
  have hin : (8 * i ≤ a ∧ a < 8 * i + ((out.drop (8 * i)).take 8).length) ↔ (a / 8 = i ∧ a < out.length) := by
    rw [List.length_take, List.length_drop]
    omega
  rw [storeChunk, lookup_storeBytes]
  simp only [hin]
  split
  · next h => rw [List.getElem?_take_of_lt (by omega), List.getElem?_drop, show 8 * i + (a - 8 * i) = a by omega]
  · rfl

/-- Storing chunks in any order leaves the output's byte at every address of a chunk that was stored. -/
theorem lookup_foldl_storeChunk (out : List Byte) (order : List Nat) (m : Memory) (a : Nat) :
    (order.foldl (storeChunk out) m).lookup a =
      if a / 8 ∈ order ∧ a < out.length then out[a]? else m.lookup a := by
  induction order generalizing m with
  | nil => simp
  | cons i order ih =>
    rw [List.foldl_cons, ih, lookup_storeChunk]
    by_cases hlast : a / 8 ∈ order <;> by_cases hi : a / 8 = i <;> by_cases ha : a < out.length <;>
      simp [hlast, hi, ha]

theorem foldl_storeChunk_wf {m : Memory} (hm : m.wf) (out : List Byte) (order : List Nat) :
    (order.foldl (storeChunk out) m).wf := by
  induction order generalizing m with
  | nil => exact hm
  | cons i order ih => exact ih (storeBytes_wf hm _ _)

/-- Settles O49: both memories are canonical, and at every address of the output they hold the output's byte. -/
theorem chunkOrderIsNotObservable : Obligations.ChunkOrderIsNotObservable := by
  intro m out order hm hperm
  refine Memory.eq_of_lookup (foldl_storeChunk_wf hm out order) (storeBytes_wf hm 0 out) fun a => ?_
  have hmem : a / 8 ∈ order ∧ a < out.length ↔ 0 ≤ a ∧ a < 0 + out.length := by
    rw [hperm.mem_iff, List.mem_range]
    omega
  rw [lookup_storeBytes, ← if_congr hmem rfl rfl]
  exact lookup_foldl_storeChunk out order m a

end Sys2Proof.Machine
end

section
/-! PROOFS. The buffer commands `ENCBUF` (R99) and `DECBUF` (R100). Both complete in `bufferDone`, whose `OBUF` holds
the transform of the bytes read below `LEN` and its own bytes from there on (R101); then O45, O46, O47, O48 and O41. -/

namespace Sys2Proof.Machine

/-- The buffer command of each direction (R94). -/
def bufferCommand : Direction → Instr
  | .encrypt => .encbuf
  | .decrypt => .decbuf

/-- What a buffer command writes (R99, R100). -/
def outputBytes (d : Direction) (s : State) : List Byte := transform s.cfg.sbox s.ks d (inputBytes s)

@[simp] theorem length_outputBytes (d : Direction) (s : State) : (outputBytes d s).length = s.len.toNat := by
  rw [outputBytes, length_transform, length_inputBytes]

/-- The state in which a buffer command completes (R99, R100). -/
def bufferDone (d : Direction) (s : State) : State :=
  finish { s with
    obuf := s.obuf.storeBytes 0 (outputBytes d s)
    draws := s.draws + s.len.toNat }

theorem exec_bufferCommand_of_inProgress {d : Direction} {s : State} (hp : s.InProgress (bufferCommand d))
    (hlen : s.len.toNat ≤ s.cfg.bufBytes) : exec (bufferCommand d) s = .next (bufferDone d s) := by
  rw [exec_of_inProgress hp]
  cases d <;> exact if_pos hlen

/-- R125: the completion answers only when its bytes exist. -/
theorem bufferDone_of_exec {d : Direction} {s t : State} (hp : s.InProgress (bufferCommand d))
    (h : exec (bufferCommand d) s = .next t) : s.len.toNat ≤ s.cfg.bufBytes ∧ t = bufferDone d s := by
  obtain hb | hlen := Nat.lt_or_ge s.cfg.bufBytes s.len.toNat
  · have hfault : exec (bufferCommand d) s = .fault .beyondBuffer := by
      rw [exec_of_inProgress hp]
      cases d <;> exact completeBuffer_of_beyond _ hb
    cases hfault.symm.trans h
  · exact ⟨hlen, Host.Outcome.next.inj (h.symm.trans (exec_bufferCommand_of_inProgress hp hlen))⟩

/-- R101: `OBUF` after the command. -/
theorem lookup_bufferDone (d : Direction) (s : State) (a : Nat) :
    (bufferDone d s).obuf.lookup a =
      if a < s.len.toNat then (transform s.cfg.sbox s.ks d (inputBytes s))[a]? else s.obuf.lookup a := by
  rw [bufferDone, finish_obuf, lookup_storeBytes, length_outputBytes, outputBytes]
  simp

/-- R29: what a buffer command reads is what was written, where anything was. -/
theorem readsAs_inputBytes (s : State) : ReadsAs s.ibuf s.len.toNat (inputBytes s) := by
  refine ⟨length_inputBytes s, fun a b ha hb => ?_⟩
  rw [inputBytes, memRead_getElem? _ _ _ _ _ ha, readByte_of_lookup (by rwa [Nat.zero_add])]

/-- Once all of its bytes have been written, the input is what was written. -/
theorem inputBytes_eq_of_written {s : State} {bytes : List Byte} (hlength : bytes.length = s.len.toNat)
    (hwritten : ∀ a, a < s.len.toNat → s.ibuf.lookup a = bytes[a]?) : inputBytes s = bytes := by
  obtain ⟨hread, hbytes⟩ := readsAs_inputBytes s
  refine List.ext_getElem? fun a => ?_
  by_cases ha : a < s.len.toNat
  · have hb : bytes[a]? = some bytes[a] := List.getElem?_eq_getElem (hlength ▸ ha)
    rw [hb, hbytes a _ ha ((hwritten a ha).trans hb)]
  · rw [List.getElem?_eq_none (by omega), List.getElem?_eq_none (by omega)]

/-- R99 to R101: the completion of a buffer command, with its frame. -/
theorem bufferCommand_completes {d : Direction} {s : State} (hp : s.InProgress (bufferCommand d))
    (hlen : s.len.toNat ≤ s.cfg.bufBytes) : ∃ t bytes,
      exec (bufferCommand d) s = .next t ∧ ReadsAs s.ibuf s.len.toNat bytes ∧
      t = { s.withWorkOf t with obuf := t.obuf, busy := false } ∧
      ∀ a, t.obuf.lookup a =
        if a < s.len.toNat then (transform s.cfg.sbox s.ks d bytes)[a]? else s.obuf.lookup a :=
  ⟨bufferDone d s, inputBytes s, exec_bufferCommand_of_inProgress hp hlen, readsAs_inputBytes s, rfl,
    lookup_bufferDone d s⟩

/-- Settles O45: the checks of R108 decide acceptance, the completion is that of the direction, and the worked example
is evaluated. -/
theorem encbufEncryptsTheBuffer : Obligations.EncbufEncryptsTheBuffer :=
  ⟨rfl, fun _ hs hv hlen => exec_of_ready hs (fun _ => hv) fun _ => hlen,
    fun _ hs hv => exec_of_ready_of_ksv_false hs rfl hv,
    fun _ hs hv hb => exec_of_ready_of_beyond hs (fun _ => hv) rfl hb,
    fun _ hp hlen => bufferCommand_completes (d := .encrypt) hp hlen, by decide +kernel⟩

/-- Settles O46: as for `ENCBUF`, in the other direction. -/
theorem decbufDecryptsTheBuffer : Obligations.DecbufDecryptsTheBuffer :=
  ⟨rfl, fun _ hs hv hlen => exec_of_ready hs (fun _ => hv) fun _ => hlen,
    fun _ hs hv => exec_of_ready_of_ksv_false hs rfl hv,
    fun _ hs hv hb => exec_of_ready_of_beyond hs (fun _ => hv) rfl hb,
    fun _ hp hlen => bufferCommand_completes (d := .decrypt) hp hlen, by decide +kernel⟩

/-- Settles O48: the second command reads the transform of what the first one read, and its direction undoes it. -/
theorem decbufUndoesEncbuf : Obligations.DecbufUndoesEncbuf := by
  intro s t s' hp h hp' hcfg hks hlen' hcopied
  obtain ⟨hlen, rfl⟩ := bufferDone_of_exec (d := .encrypt) hp h
  have hinput : inputBytes s' = transform s.cfg.sbox s.ks .encrypt (inputBytes s) := by
    refine inputBytes_eq_of_written (by rw [length_transform, length_inputBytes, hlen']) fun a ha => ?_
    rw [hlen'] at ha
    rw [hcopied a ha, lookup_bufferDone, if_pos ha]
  refine ⟨bufferDone .decrypt s', exec_bufferCommand_of_inProgress (d := .decrypt) hp' (by rwa [hlen', hcfg]),
    fun a b ha hb => ?_⟩
  obtain ⟨-, hread⟩ := readsAs_inputBytes s
  rw [lookup_bufferDone, hlen', if_pos ha, hinput, hcfg, hks,
    transform_transform (d := .encrypt) (d' := .decrypt) (decryptBlock_encryptBlock s.cfg.sbox s.ks)]
  exact hread a b ha hb

/-- R104: `LEN = 0` writes nothing. -/
theorem obuf_bufferDone_of_len_zero {d : Direction} {s : State} (h : s.len = 0) : (bufferDone d s).obuf = s.obuf := by
  have hout : outputBytes d s = [] := List.length_eq_zero_iff.mp (by rw [length_outputBytes, h]; rfl)
  rw [bufferDone, finish_obuf, hout]
  rfl

/-- R104, R97: below 8 bytes the written ones are copied. -/
theorem lookup_bufferDone_of_len_lt {d : Direction} {s : State} (h : s.len.toNat < 8) {a : Nat} {b : Byte}
    (ha : a < s.len.toNat) (hb : s.ibuf.lookup a = some b) : (bufferDone d s).obuf.lookup a = some b := by
  obtain ⟨hlength, hread⟩ := readsAs_inputBytes s
  rw [lookup_bufferDone, if_pos ha, transform_of_length_lt _ _ _ (by omega), hread a b ha hb]

/-- R96: 8 bytes are one chunk. -/
theorem lookup_bufferDone_of_chunk {d : Direction} {s : State} {chunk : Vector Byte 8} (h : s.len = 8)
    (hinput : inputBytes s = chunk.toList) (j : Fin 8) :
    (bufferDone d s).obuf.lookup j = some (chunkOp s.cfg.sbox s.ks d chunk)[j] := by
  rw [lookup_bufferDone, if_pos (by rw [h]; exact j.isLt), hinput, transform_chunk]
  simp

theorem exists_chunk_of_len_eight {s : State} (h : s.len = 8) : ∃ chunk : Vector Byte 8, inputBytes s = chunk.toList :=
  ⟨⟨(inputBytes s).toArray, by simp [h]⟩, rfl⟩

/-- R104 for one direction. -/
theorem bufferCommand_short {d : Direction} {s : State} (hp : s.InProgress (bufferCommand d))
    (hlen : s.len.toNat ≤ s.cfg.bufBytes) :
    (s.len = 0 → ∃ t, exec (bufferCommand d) s = .next t ∧ t.busy = false ∧ t.obuf = s.obuf) ∧
    (s.len.toNat < 8 → ∃ t, exec (bufferCommand d) s = .next t ∧
      ∀ a b, a < s.len.toNat → s.ibuf.lookup a = some b → t.obuf.lookup a = some b) ∧
    (s.len = 8 → ∃ t, ∃ chunk : Vector Byte 8, exec (bufferCommand d) s = .next t ∧
      ReadsAs s.ibuf 8 chunk.toList ∧
      ∀ j : Fin 8, t.obuf.lookup j = some (le64enc (blockOp s.cfg.sbox s.ks d (le64dec chunk)))[j]) := by
  have hdone := exec_bufferCommand_of_inProgress hp hlen
  refine ⟨fun h => ⟨_, hdone, rfl, obuf_bufferDone_of_len_zero h⟩,
    fun h => ⟨_, hdone, fun a b => lookup_bufferDone_of_len_lt h⟩, fun h => ?_⟩
  obtain ⟨chunk, hchunk⟩ := exists_chunk_of_len_eight h
  have hread := readsAs_inputBytes s
  rw [h, hchunk] at hread
  exact ⟨_, chunk, hdone, hread, lookup_bufferDone_of_chunk h hchunk⟩

/-- Settles O47: the refusal does not look at `LEN`, and the completion is that of the direction. -/
theorem shortBuffersAreCopied : Obligations.ShortBuffersAreCopied := by
  intro i hi s
  have hkey : needsKey i = true := by obtain rfl | rfl := hi <;> rfl
  refine ⟨fun hs hv => exec_of_ready_of_ksv_false hs hkey hv, fun hp hlen => ?_⟩
  obtain rfl | rfl := hi
  · exact bufferCommand_short (d := .encrypt) hp hlen
  · exact bufferCommand_short (d := .decrypt) hp hlen

/-- R34: the first four bytes of a chunk are `lower` and the last four `upper`. -/
theorem splitWord_le64dec (b : Vector Byte 8) :
    splitWord (le64dec b) = ⟨b[3] ++ b[2] ++ b[1] ++ b[0], b[7] ++ b[6] ++ b[5] ++ b[4]⟩ := by
  have hjoin : le64dec b = joinHalves ⟨b[3] ++ b[2] ++ b[1] ++ b[0], b[7] ++ b[6] ++ b[5] ++ b[4]⟩ := by
    refine BitVec.eq_of_toNat_eq ?_
    simp only [le64dec, joinHalves, toNat_append_eq_add]
    ring
  rw [hjoin, splitWord_joinHalves]

/-- The block command of each direction. -/
def blockCommand : Direction → Instr
  | .encrypt => .encb
  | .decrypt => .decb

theorem exec_blockCommand_of_inProgress {d : Direction} {s : State} (hp : s.InProgress (blockCommand d)) :
    exec (blockCommand d) s = .next (finish { s with dout := blockOp s.cfg.sbox s.ks d s.din }) := by
  rw [exec_of_inProgress hp]
  cases d <;> rfl

/-- R33, R96: on `LE64enc(DIN)` the buffer command gives `LE64enc` of what the block command gives on `DIN`. -/
theorem block_and_buffer_agree {d : Direction} {s s' : State} (hp : s.InProgress (blockCommand d))
    (hp' : s'.InProgress (bufferCommand d)) (hcfg : s'.cfg = s.cfg) (hks : s'.ks = s.ks) (hlen : s'.len = 8)
    (hcap : 8 ≤ s'.cfg.bufBytes) (hibuf : ∀ a : Fin 8, s'.ibuf.lookup a = some (le64enc s.din)[a]) :
    ∃ t t', exec (blockCommand d) s = .next t ∧ exec (bufferCommand d) s' = .next t' ∧
      ∀ a : Fin 8, t'.obuf.lookup a = some (le64enc t.dout)[a] := by
  have hlen8 : s'.len.toNat = 8 := by rw [hlen]; rfl
  have hinput : inputBytes s' = (le64enc s.din).toList :=
    inputBytes_eq_of_written (by rw [Vector.length_toList, hlen8]) fun a ha => by
      rw [hibuf ⟨a, hlen8 ▸ ha⟩]
      simp [hlen8 ▸ ha]
  refine ⟨_, _, exec_blockCommand_of_inProgress hp, exec_bufferCommand_of_inProgress hp' (hlen8.trans_le hcap),
    fun a => ?_⟩
  rw [lookup_bufferDone_of_chunk hlen hinput, chunkOp, le64dec_le64enc, hcfg, hks, finish_dout]

/-- Settles O41: the halves of a decoded chunk, then the two commands in each direction. -/
theorem blockAndBufferCommandsAgree : Obligations.BlockAndBufferCommandsAgree := by
  refine ⟨fun b0 b1 b2 b3 b4 b5 b6 b7 => ?_, fun s s' i j hij hp hp' hcfg hks hlen hcap hibuf => ?_⟩
  · rw [splitWord_le64dec]
    exact ⟨rfl, rfl⟩
  · obtain ⟨rfl, rfl⟩ | ⟨rfl, rfl⟩ := hij
    · exact block_and_buffer_agree (d := .encrypt) hp hp' hcfg hks hlen hcap hibuf
    · exact block_and_buffer_agree (d := .decrypt) hp hp' hcfg hks hlen hcap hibuf

end Sys2Proof.Machine
end

section
/-! PROOFS. Runs of micro-steps (R91, R112): if the states of a list of intermediate states follow one another by a
micro-step, starting with the loaded engine, then they are what the run goes through, and one more micro-step ends it.
Then the block commands, whose intermediate states hold the halves of the partial encryption or decryption; then O56. -/

namespace Sys2Proof.Machine

theorem microRun_succ (k : Nat) (s : State) : microRun (k + 1) s = microStep (microRun k s) := by
  induction k generalizing s with
  | zero => rfl
  | succ k ih =>
    calc microRun (k + 2) s
      _ = microRun (k + 1) (microStep s) := rfl
      _ = microStep (microRun k (microStep s)) := ih (microStep s)
      _ = microStep (microRun (k + 1) s) := rfl

/-- The micro-step of each command. -/
def microCommand : Instr → State → State
  | .nop => fun s => { s with busy := false }
  | .kgen => microKgen
  | .encb => microEncb
  | .decb => microDecb
  | .encbuf => microBuffer .encrypt
  | .decbuf => microBuffer .decrypt

theorem decodeOp_of_inProgress {i : Instr} {s : State} (hp : s.InProgress i) : decodeOp s.opc = some i :=
  hp.2 ▸ decodeOp_opcode i

theorem microStep_of_inProgress {i : Instr} {s : State} (hp : s.InProgress i) : microStep s = microCommand i s := by
  rw [microStep, if_pos hp.1, decodeOp_of_inProgress hp]
  cases i <;> rfl

/-- `mid` are the states before each of the `n + 1` micro-steps of `s`. -/
structure MicroStates (s : State) {n : Nat} (mid : Fin (n + 1) → State) : Prop where
  start : microStart s = mid 0
  next (r : Fin n) : microStep (mid r.castSucc) = mid r.succ

theorem MicroStates.microRun_eq {s : State} {n : Nat} {mid : Fin (n + 1) → State} (h : MicroStates s mid)
    (r : Fin (n + 1)) : microRun r (microStart s) = mid r := by
  induction r using Fin.induction with
  | zero => exact h.start
  | succ r ih => rw [Fin.val_succ, microRun_succ, ← h.next r, ← ih, Fin.val_castSucc]

theorem MicroStates.microRun_last {s : State} {n : Nat} {mid : Fin (n + 1) → State} (h : MicroStates s mid) :
    microRun (n + 1) (microStart s) = microStep (mid (Fin.last n)) := by
  rw [microRun_succ, ← h.microRun_eq (Fin.last n), Fin.val_last]

theorem toNat_roundIndex (r : Fin 25) : (BitVec.ofNat 5 r).toNat = r := by
  rw [BitVec.toNat_ofNat]
  exact Nat.mod_eq_of_lt (by omega)

/-- `RND` equals a round index exactly in that round. -/
theorem roundIndex_eq_iff (r q : Fin 25) : BitVec.ofNat 5 r = BitVec.ofNat 5 q ↔ r = q := by
  rw [← BitVec.toNat_inj, toNat_roundIndex, toNat_roundIndex, Fin.val_inj]

theorem microKey_of_rnd {s : State} {r : Fin 25} (h : s.rnd = BitVec.ofNat 5 r) : microKey s = s.ks[r] := by
  rw [microKey, h, toNat_roundIndex]
  simp

/-- R91: the engine before round `r` of an encryption. -/
def encMid (s : State) (r : Fin 25) : State :=
  { s with
    l := (encStates s.cfg.sbox s.ks s.din r.castSucc).lower
    u := (encStates s.cfg.sbox s.ks s.din r.castSucc).upper
    rnd := BitVec.ofNat 5 r }

/-- R91: the engine after the last round of an encryption. -/
def encLast (s : State) : State :=
  { encMid s (Fin.last 24) with
    l := (encStates s.cfg.sbox s.ks s.din (Fin.last 25)).lower
    u := (encStates s.cfg.sbox s.ks s.din (Fin.last 25)).upper
    dout := encryptBlock s.cfg.sbox s.ks s.din
    busy := false }

theorem encRound_encMid (s : State) (r : Fin 25) :
    encRound (encMid s r).cfg.sbox (microKey (encMid s r)) ⟨(encMid s r).l, (encMid s r).u⟩ =
      encStates s.cfg.sbox s.ks s.din r.succ := by
  rw [microKey_of_rnd (s := encMid s r) rfl, encStates_succ]
  rfl

theorem roundIndex_succ (r : Fin 24) : BitVec.ofNat 5 r.castSucc + 1 = BitVec.ofNat 5 r.succ := by
  rw [Fin.val_succ, Fin.val_castSucc, BitVec.ofNat_add]
  rfl

theorem microEncb_encMid (s : State) (r : Fin 24) : microEncb (encMid s r.castSucc) = encMid s r.succ := by
  have hrnd : (encMid s r.castSucc).rnd ≠ 24 := mt (roundIndex_eq_iff r.castSucc 24).mp (Fin.castSucc_lt_last r).ne
  rw [microEncb, encRound_encMid, if_neg hrnd]
  simp only [encMid, roundIndex_succ]
  rfl

theorem microEncb_encMid_last (s : State) : microEncb (encMid s (Fin.last 24)) = encLast s := by
  have hrnd : (encMid s (Fin.last 24)).rnd = 24 := rfl
  rw [microEncb, encRound_encMid, if_pos hrnd, encLast, encryptBlock_eq_encStates]
  rfl

theorem encMid_microStates {s : State} (hp : s.InProgress .encb) : MicroStates s (encMid s) where
  start := by
    rw [microStart, decodeOp_of_inProgress hp]
    rfl
  next r := (microStep_of_inProgress (i := .encb) (s := encMid s r.castSucc) hp).trans (microEncb_encMid s r)

theorem microRun_encb {s : State} (hp : s.InProgress .encb) : microRun 25 (microStart s) = encLast s :=
  calc microRun 25 (microStart s)
    _ = microStep (encMid s (Fin.last 24)) := (encMid_microStates hp).microRun_last
    _ = microEncb (encMid s (Fin.last 24)) :=
      microStep_of_inProgress (i := .encb) (s := encMid s (Fin.last 24)) hp
    _ = encLast s := microEncb_encMid_last s

/-- R91: the engine in a decryption before the micro-step that comes after `r` others, which does round `24 - r`. -/
def decMid (s : State) (r : Fin 25) : State :=
  { s with
    l := (decStates s.cfg.sbox s.ks s.din r.rev.succ).lower
    u := (decStates s.cfg.sbox s.ks s.din r.rev.succ).upper
    rnd := BitVec.ofNat 5 r.rev }

/-- R91: the engine after the last round of a decryption. -/
def decLast (s : State) : State :=
  { decMid s (Fin.last 24) with
    l := (decStates s.cfg.sbox s.ks s.din 0).lower
    u := (decStates s.cfg.sbox s.ks s.din 0).upper
    dout := decryptBlock s.cfg.sbox s.ks s.din
    busy := false }

theorem decRound_decMid (s : State) (r : Fin 25) :
    decRound (decMid s r).cfg.sbox (microKey (decMid s r)) ⟨(decMid s r).l, (decMid s r).u⟩ =
      decStates s.cfg.sbox s.ks s.din r.rev.castSucc := by
  rw [microKey_of_rnd (s := decMid s r) rfl, decStates_castSucc]
  rfl

theorem roundIndex_pred (r : Fin 24) : BitVec.ofNat 5 r.succ - 1 = BitVec.ofNat 5 r.castSucc := by
  rw [← roundIndex_succ, BitVec.add_sub_cancel]

theorem microDecb_decMid (s : State) (r : Fin 24) : microDecb (decMid s r.castSucc) = decMid s r.succ := by
  have hrnd : (decMid s r.castSucc).rnd ≠ 0 := mt (roundIndex_eq_iff r.castSucc.rev 0).mp (by simp [Fin.rev_castSucc])
  rw [microDecb, decRound_decMid, if_neg hrnd]
  simp only [decMid, Fin.rev_castSucc, Fin.rev_succ, roundIndex_pred]
  rfl

theorem microDecb_decMid_last (s : State) : microDecb (decMid s (Fin.last 24)) = decLast s := by
  have hrnd : (decMid s (Fin.last 24)).rnd = 0 := rfl
  rw [microDecb, decRound_decMid, if_pos hrnd, decLast, decryptBlock_eq_decStates]
  rfl

theorem decMid_microStates {s : State} (hp : s.InProgress .decb) : MicroStates s (decMid s) where
  start := by
    rw [microStart, decodeOp_of_inProgress hp]
    rfl
  next r := (microStep_of_inProgress (i := .decb) (s := decMid s r.castSucc) hp).trans (microDecb_decMid s r)

theorem microRun_decb {s : State} (hp : s.InProgress .decb) : microRun 25 (microStart s) = decLast s :=
  calc microRun 25 (microStart s)
    _ = microStep (decMid s (Fin.last 24)) := (decMid_microStates hp).microRun_last
    _ = microDecb (decMid s (Fin.last 24)) :=
      microStep_of_inProgress (i := .decb) (s := decMid s (Fin.last 24)) hp
    _ = decLast s := microDecb_decMid_last s

/-- Settles O56: after 25 micro-steps the engine is in `encLast` or `decLast`. -/
theorem twentyFiveMicroRoundsMakeABlock : Obligations.TwentyFiveMicroRoundsMakeABlock := by
  refine fun s => ⟨fun hp => ?_, fun hp => ?_⟩
  · rw [microRun_encb hp]
    exact ⟨rfl, rfl, rfl⟩
  · rw [microRun_decb hp]
    exact ⟨rfl, rfl, rfl⟩

end Sys2Proof.Machine
end

section
/-! PROOFS. The micro-steps of every command refine its completion step (R112). For each command the states before its
micro-steps are given, all with `BUSY = 1` and `KSV` as it was, and its last micro-step gives the completion's state;
`KGEN` stores the schedule key by key, and a buffer command the output chunk by chunk; then O57. -/

namespace Sys2Proof.Machine

/-- R112: `k` micro-steps of `s` keep `BUSY` and `KSV` until the last and end in `t`, the working registers aside. -/
def MicroRefines (s t : State) (k : Nat) : Prop :=
  (∀ j < k, (microRun j (microStart s)).busy = true ∧ (microRun j (microStart s)).ksv = s.ksv) ∧
    microRun k (microStart s) = t.withWorkOf (microRun k (microStart s))

theorem MicroStates.microRefines {s t : State} {n : Nat} {mid : Fin (n + 1) → State} (h : MicroStates s mid)
    (hmid : ∀ r, (mid r).busy = true ∧ (mid r).ksv = s.ksv)
    (hlast : microStep (mid (Fin.last n)) = t.withWorkOf (microStep (mid (Fin.last n)))) :
    MicroRefines s t (n + 1) := by
  refine ⟨fun j hj => ?_, ?_⟩
  · rw [h.microRun_eq ⟨j, hj⟩]
    exact hmid ⟨j, hj⟩
  · rw [h.microRun_last]
    exact hlast

/-- A command of one micro-step. -/
theorem microStates_single (s : State) : MicroStates s (fun _ : Fin 1 => microStart s) where
  start := rfl
  next r := r.elim0

theorem microRefines_nop {s : State} (hp : s.InProgress .nop) : MicroRefines s (finish s) 1 := by
  have hstart : microStart s = s := by rw [microStart, decodeOp_of_inProgress hp]
  refine (microStates_single s).microRefines (fun _ => ?_) ?_ <;> rw [hstart]
  · exact ⟨hp.1, rfl⟩
  · rw [microStep_of_inProgress hp]
    rfl

theorem microRefines_encb {s : State} (hp : s.InProgress .encb) :
    MicroRefines s (finish { s with dout := encryptBlock s.cfg.sbox s.ks s.din }) 25 := by
  refine (encMid_microStates hp).microRefines (fun _ => ⟨hp.1, rfl⟩) ?_
  rw [← (encMid_microStates hp).microRun_last, microRun_encb hp]
  rfl

theorem microRefines_decb {s : State} (hp : s.InProgress .decb) :
    MicroRefines s (finish { s with dout := decryptBlock s.cfg.sbox s.ks s.din }) 25 := by
  refine (decMid_microStates hp).microRefines (fun _ => ⟨hp.1, rfl⟩) ?_
  rw [← (decMid_microStates hp).microRun_last, microRun_decb hp]
  rfl

/-- R67, R71: the pair that iteration `i` starts from. -/
def pairBefore (T : Sbox) : Nat → RoundKey
  | 0 => seed
  | i + 1 => roundKey T i

theorem scheduleStep_pairBefore (T : Sbox) (i : Nat) : scheduleStep T i (pairBefore T i) = roundKey T i := by
  cases i <;> rfl

/-- R71: the schedule memory `ks` once the first `n` keys have been stored. (Irreducible, so that comparing two states
does not compute keys.) -/
@[irreducible] def partialSchedule (T : Sbox) (ks : Vector RoundKey 25) (n : Nat) : Vector RoundKey 25 :=
  Vector.ofFn fun r : Fin 25 => if (r : Nat) < n then roundKey T r else ks[r]

theorem partialSchedule_zero (T : Sbox) (ks : Vector RoundKey 25) : partialSchedule T ks 0 = ks :=
  Vector.ext fun r hr => by simp [partialSchedule]

theorem partialSchedule_all (T : Sbox) (ks : Vector RoundKey 25) : partialSchedule T ks 25 = keyScheduleGen T := by
  simp [partialSchedule, keyScheduleGen]

theorem partialSchedule_succ (T : Sbox) (ks : Vector RoundKey 25) (n : Nat) :
    (partialSchedule T ks n).setIfInBounds n (roundKey T n) = partialSchedule T ks (n + 1) := by
  refine Vector.ext fun r hr => ?_
  simp only [partialSchedule, Vector.getElem_setIfInBounds, Vector.getElem_ofFn]
  obtain h | rfl | h := Nat.lt_trichotomy n r
  · simp [h.ne, show ¬r < n by omega, show ¬r < n + 1 by omega]
  · simp
  · simp [h.ne', h, show r < n + 1 by omega]

/-- R112: `KGEN` before iteration `r`. -/
def kgenMid (s : State) (r : Fin 25) : State :=
  { s with
    k0w := (pairBefore s.cfg.sbox r).k0
    k1w := (pairBefore s.cfg.sbox r).k1
    rnd := BitVec.ofNat 5 r
    ks := partialSchedule s.cfg.sbox s.ks r }

theorem microStart_kgen {s : State} (hp : s.InProgress .kgen) : microStart s = kgenMid s 0 := by
  rw [microStart, decodeOp_of_inProgress hp, kgenMid, Fin.val_zero, partialSchedule_zero]
  rfl

theorem microStep_kgenMid {s : State} (hp : s.InProgress .kgen) (r : Fin 25) :
    microStep (kgenMid s r) = microKgen (kgenMid s r) :=
  microStep_of_inProgress (i := .kgen) (s := kgenMid s r) hp

/-- R76: with `KSV = 1` already there is one micro-step, which only clears `BUSY`. -/
theorem microRefines_kgen_of_ksv_true {s : State} (hp : s.InProgress .kgen) (hv : s.ksv = true) :
    MicroRefines s (finish s) 1 := by
  refine (microStates_single s).microRefines (fun _ => ?_) ?_ <;> rw [microStart_kgen hp]
  · exact ⟨hp.1, rfl⟩
  · have hv' : (kgenMid s 0).ksv = true := hv
    rw [microStep_kgenMid hp, microKgen, if_pos hv', kgenMid, Fin.val_zero, partialSchedule_zero]
    rfl

/-- R67, R112 (b): one micro-step of `KGEN`, `p` being the new pair and `ks` the schedule memory with it stored. -/
theorem microKgen_of_ksv_false {s : State} {p : RoundKey} {ks : Vector RoundKey 25} (hv : s.ksv = false)
    (hpair : scheduleStep s.cfg.sbox s.rnd.toNat ⟨s.k0w, s.k1w⟩ = p) (hks : s.ks.setIfInBounds s.rnd.toNat p = ks) :
    microKgen s =
      if s.rnd = 24 then { s with k0w := p.k0, k1w := p.k1, ks := ks, ksv := true, busy := false }
      else { s with k0w := p.k0, k1w := p.k1, ks := ks, rnd := s.rnd + 1 } := by
  subst hpair hks
  exact if_neg (by simp [hv])

theorem microKgen_kgenMid {s : State} (hv : s.ksv = false) (r : Fin 25) :
    microKgen (kgenMid s r) =
      if r = Fin.last 24 then { kgenMid s r with
        k0w := (roundKey s.cfg.sbox r).k0, k1w := (roundKey s.cfg.sbox r).k1
        ks := partialSchedule s.cfg.sbox s.ks (r + 1), ksv := true, busy := false }
      else { kgenMid s r with
        k0w := (roundKey s.cfg.sbox r).k0, k1w := (roundKey s.cfg.sbox r).k1
        ks := partialSchedule s.cfg.sbox s.ks (r + 1), rnd := BitVec.ofNat 5 r + 1 } := by
  have hrnd : (kgenMid s r).rnd.toNat = r := toNat_roundIndex r
  have hpair : scheduleStep s.cfg.sbox (kgenMid s r).rnd.toNat (pairBefore s.cfg.sbox r) = roundKey s.cfg.sbox r := by
    rw [hrnd, scheduleStep_pairBefore]
  have hks : (kgenMid s r).ks.setIfInBounds (kgenMid s r).rnd.toNat (roundKey s.cfg.sbox r) =
      partialSchedule s.cfg.sbox s.ks (r + 1) := by
    rw [hrnd]
    exact partialSchedule_succ s.cfg.sbox s.ks r
  rw [microKgen_of_ksv_false (s := kgenMid s r) hv hpair hks]
  exact if_congr (roundIndex_eq_iff r (Fin.last 24)) rfl rfl

theorem microKgen_kgenMid_castSucc {s : State} (hv : s.ksv = false) (r : Fin 24) :
    microKgen (kgenMid s r.castSucc) = kgenMid s r.succ := by
  rw [microKgen_kgenMid hv, if_neg (Fin.castSucc_lt_last r).ne, roundIndex_succ]
  rfl

theorem microRefines_kgen_of_ksv_false {s : State} (hp : s.InProgress .kgen) (hv : s.ksv = false) :
    MicroRefines s (finish { s with ks := keyScheduleGen s.cfg.sbox, ksv := true }) 25 := by
  have hmid : MicroStates s (kgenMid s) :=
    ⟨microStart_kgen hp, fun r => (microStep_kgenMid hp r.castSucc).trans (microKgen_kgenMid_castSucc hv r)⟩
  refine hmid.microRefines (fun _ => ⟨hp.1, rfl⟩) ?_
  rw [microStep_kgenMid hp, microKgen_kgenMid hv, if_pos rfl, ← partialSchedule_all s.cfg.sbox s.ks]
  rfl

theorem storeBytes_append (m : Memory) (a : Nat) (xs ys : List Byte) :
    m.storeBytes a (xs ++ ys) = (m.storeBytes a xs).storeBytes (a + xs.length) ys := by
  induction xs generalizing m a with
  | nil => rfl
  | cons x xs ih =>
    rw [List.cons_append, Memory.storeBytes, ih, Memory.storeBytes, List.length_cons, Nat.add_right_comm, Nat.add_assoc]

/-- A chunk read at its offset is the chunk of what is read at once. -/
theorem memRead_chunk (m : Memory) (n d c : Nat) :
    memRead m c (min 8 (n - c)) (d + c) = ((memRead m 0 n d).drop c).take 8 := by
  refine List.ext_getElem (by simp) fun j hj _ => ?_
  simp [memRead, Nat.add_assoc]

/-- R112: a buffer command before chunk `r` (R95). -/
def bufferMid (d : Direction) (s : State) (r : Nat) : State :=
  { s with
    chk := BitVec.ofNat 32 (8 * r)
    obuf := s.obuf.storeBytes 0 ((outputBytes d s).take (8 * r)) }

/-- What a micro-step of a buffer command stores, at an offset below `LEN` or at 0. -/
theorem storeBytes_bufferMid (d : Direction) (s : State) {r : Nat} (hr : 8 * r ≤ s.len.toNat) :
    (bufferMid d s r).obuf.storeBytes (8 * r)
        (transform s.cfg.sbox s.ks d (memRead s.ibuf (8 * r) (min 8 (s.len.toNat - 8 * r)) (s.draws + 8 * r))) =
      s.obuf.storeBytes 0 ((outputBytes d s).take (8 * r + 8)) := by
  have hlength : ((outputBytes d s).take (8 * r)).length = 8 * r := by simp [hr]
  have hchunk : transform s.cfg.sbox s.ks d
      (memRead s.ibuf (8 * r) (min 8 (s.len.toNat - 8 * r)) (s.draws + 8 * r)) =
        ((outputBytes d s).drop (8 * r)).take 8 := by
    rw [memRead_chunk, ← inputBytes, outputBytes, take_drop_transform]
  rw [hchunk, List.take_add, storeBytes_append, hlength, Nat.zero_add]
  rfl

theorem toNat_chk_bufferMid (d : Direction) (s : State) {r : Nat} (hr : 8 * r ≤ s.len.toNat) :
    (bufferMid d s r).chk.toNat = 8 * r := by
  have hlen := s.len.isLt
  rw [bufferMid, BitVec.toNat_ofNat]
  exact Nat.mod_eq_of_lt (by omega)

/-- R95: one micro-step of a buffer command at offset `c`, `obuf` being the buffer with the chunk stored. -/
theorem microBuffer_of_chk {d : Direction} {s : State} {c : Nat} {obuf : Memory} (hchk : s.chk.toNat = c)
    (hobuf : s.obuf.storeBytes c
      (transform s.cfg.sbox s.ks d (memRead s.ibuf c (min 8 (s.len.toNat - c)) (s.draws + c))) = obuf) :
    microBuffer d s =
      if s.len.toNat - c ≤ 8 then { s with obuf := obuf, busy := false, draws := s.draws + s.len.toNat }
      else { s with obuf := obuf, chk := s.chk + 8 } := by
  subst hchk hobuf
  rfl

theorem microBuffer_bufferMid (d : Direction) (s : State) {r : Nat} (hr : 8 * r ≤ s.len.toNat) :
    microBuffer d (bufferMid d s r) =
      if s.len.toNat - 8 * r ≤ 8 then { bufferMid d s (r + 1) with
        chk := BitVec.ofNat 32 (8 * r), busy := false, draws := s.draws + s.len.toNat }
      else bufferMid d s (r + 1) := by
  have hchk : BitVec.ofNat 32 (8 * r) + 8 = BitVec.ofNat 32 (8 * (r + 1)) := by
    rw [Nat.mul_succ, BitVec.ofNat_add]
    rfl
  rw [microBuffer_of_chk (s := bufferMid d s r) (toNat_chk_bufferMid d s hr) (storeBytes_bufferMid d s hr)]
  simp only [bufferMid, hchk, Nat.mul_succ]

theorem microStart_bufferCommand {d : Direction} {s : State} (hp : s.InProgress (bufferCommand d)) :
    microStart s = bufferMid d s 0 := by
  rw [microStart, decodeOp_of_inProgress hp]
  cases d <;> rfl

theorem microStep_bufferMid {d : Direction} {s : State} (hp : s.InProgress (bufferCommand d)) (r : Nat) :
    microStep (bufferMid d s r) = microBuffer d (bufferMid d s r) := by
  rw [microStep_of_inProgress (i := bufferCommand d) (s := bufferMid d s r) hp]
  cases d <;> rfl

/-- R95, R112: there are as many micro-steps as chunks, and one when `LEN = 0`. -/
theorem microRefines_bufferCommand {d : Direction} {s : State} (hp : s.InProgress (bufferCommand d)) :
    MicroRefines s (bufferDone d s) ((s.len.toNat - 1) / 8 + 1) := by
  have hmid : MicroStates s (fun r : Fin ((s.len.toNat - 1) / 8 + 1) => bufferMid d s r) := by
    refine ⟨microStart_bufferCommand hp, fun r => ?_⟩
    have hr := r.isLt
    rw [microStep_bufferMid hp, Fin.val_castSucc, microBuffer_bufferMid d s (by omega), if_neg (by omega), Fin.val_succ]
  refine hmid.microRefines (fun _ => ⟨hp.1, rfl⟩) ?_
  have hall : (outputBytes d s).take (8 * ((s.len.toNat - 1) / 8 + 1)) = outputBytes d s :=
    List.take_of_length_le (by rw [length_outputBytes]; omega)
  rw [microStep_bufferMid hp, Fin.val_last, microBuffer_bufferMid d s (by omega), if_pos (by omega), bufferMid, hall]
  rfl

/-- R112, command by command. -/
theorem exists_microRefines {s : State} {i : Instr} (hinv : s.Inv) (hp : s.InProgress i) :
    ∃ t k, exec i s = .next t ∧ MicroRefines s t k := by
  cases i with
  | nop => exact ⟨_, _, exec_of_inProgress hp, microRefines_nop hp⟩
  | kgen =>
    obtain hv | hv := Bool.eq_false_or_eq_true s.ksv
    · exact ⟨_, _, exec_kgen_of_ksv_true hp hv, microRefines_kgen_of_ksv_true hp hv⟩
    · exact ⟨_, _, exec_kgen_of_ksv_false hp hv, microRefines_kgen_of_ksv_false hp hv⟩
  | encb => exact ⟨_, _, exec_encb_of_inProgress hp, microRefines_encb hp⟩
  | decb => exact ⟨_, _, exec_decb_of_inProgress hp, microRefines_decb hp⟩
  | encbuf =>
    exact ⟨_, _, exec_bufferCommand_of_inProgress (d := .encrypt) hp (hinv.len_le_of_inProgress hp rfl),
      microRefines_bufferCommand (d := .encrypt) hp⟩
  | decbuf =>
    exact ⟨_, _, exec_bufferCommand_of_inProgress (d := .decrypt) hp (hinv.len_le_of_inProgress hp rfl),
      microRefines_bufferCommand (d := .decrypt) hp⟩

/-- Settles O57: every command has its completion and its number of micro-steps. -/
theorem microStepsRefineTheCompletion : Obligations.MicroStepsRefineTheCompletion :=
  fun _ _ hinv hp => exists_microRefines hinv hp

end Sys2Proof.Machine
end
